-- ==== Sys2Proof/Word.lean ====
section
/-! DEFINITION. The widths of the block's values (spec/00_scope.md R6, R7): every value is an unsigned bit vector. -/

namespace Sys2Proof

/-- A frame-buffer byte, `BYTE_W = 8` (R6); bit 7 is the first bit of the stream in the byte (R32). -/
abbrev Byte := BitVec 8

/-- A 16-bit value: the accumulator, a frame offset, a bit count or a length (R6: `ACC_W`, `OFF_W`, `BITCNT_W`). -/
abbrev Half := BitVec 16

/-- A command word or a register-port value, `CMD_W = REG_W = 32` (R6). -/
abbrev Word := BitVec 32

end Sys2Proof
end

