-- ==== Sys2Proof/Config.lean ====
section
/-! DEFINITION. What an implementation fixes (spec/00_scope.md R6) and the values the spec leaves unspecified. -/

namespace Sys2Proof

/-- The one OPEN parameter of R6. A machine's parameters never change while it runs; they stand in `State` as plain
data, so that a claim over every state is a claim over every parameter value (assumption 2). -/
structure Params where
  /-- `BITCNT_MAX`: the largest `bit_count` the implementation accepts, 0 to 65535 (R6, D6). -/
  bitcntMax : Half
  deriving DecidableEq, Repr

/-- The default of R6: `BITCNT_MAX = 65535`. -/
def Params.default : Params := { bitcntMax := 0xFFFF }

/-- FREE VALUE: the 16-bit value the host gets when it reads register index 0 while `BUSY = 1`, a fresh draw at each
read (R17, R147, U6); applied to the number of draws made so far (assumption 5). -/
opaque Config.busyAcc : Nat → Half

/-- FREE VALUE: whether the host, reading offset 4 or 5 while `BUSY = 1`, gets the new byte (true) or the old one
(false): "unspecified which" (R147); applied to the number of draws made so far (assumption 6). -/
opaque Config.busySeesNew : Nat → Bool

end Sys2Proof
end

