-- ==== Sys2Proof/Syntax.lean ====
section
/-! DEFINITION. The command set (spec/30_encoding.md R51, R52): one constructor per row of spec/opcode_table.json. -/

namespace Sys2Proof

/-- A legal command. The operand types hold exactly the operand values R52 and R56 allow, so that every term is the
meaning of exactly one legal command word. -/
inductive Instr where
  /-- `LDACC v` (R75). -/
  | ldacc (v : Half)
  /-- `UPD n, b` with `n` = 0 to 7, the table's row with `n[3] = 0` (R76). -/
  | upd (n : BitVec 3) (b : Byte)
  /-- `UPD 8, b`, the table's row for `n = 8` (R76). -/
  | upd8 (b : Byte)
  /-- `WHDR bc` (R90). -/
  | whdr (bc : Half)
  /-- `SETLEN len` (R110). -/
  | setlen (len : Half)
  /-- `CLRERR` (R112). -/
  | clrerr
  deriving DecidableEq, Repr

/-- The pseudo-instruction `INIT` (R57). -/
abbrev Instr.init : Instr := .ldacc 0xFFFF

/-- The pseudo-instruction `UPDB b` (R57). -/
abbrev Instr.updb (b : Byte) : Instr := .upd8 b

/-- The assembler line of a command (R56), numerals in decimal. -/
def Instr.line : Instr → String
  | .ldacc v => "LDACC " ++ toString v.toNat
  | .upd n b => "UPD " ++ toString n.toNat ++ ", " ++ toString b.toNat
  | .upd8 b => "UPD 8, " ++ toString b.toNat
  | .whdr bc => "WHDR " ++ toString bc.toNat
  | .setlen len => "SETLEN " ++ toString len.toNat
  | .clrerr => "CLRERR"

end Sys2Proof
end

