-- ==== Sys2Proof/Machine/State.lean ====
section
/-! DEFINITION. The state of the block, of its frame buffer and of the host that drives it, as plain data
(spec/10_state.md; spec/20_memory.md R30; spec/70_reset_and_hazards.md R153). -/

namespace Sys2Proof.Machine

/-- The cause of the recorded fault, the 2-bit register `CAUSE` (R15, R121); all four codes are named. -/
inductive Cause where
  /-- 0: no fault recorded. -/
  | none
  /-- 1: the word was no command. -/
  | illegalCommand
  /-- 2: `bc > BITCNT_MAX`. -/
  | invalidBitCount
  /-- 3: `6 + ceil(bc/8) > LEN`. -/
  | invalidBounds
  deriving DecidableEq, Repr

/-- The in-flight record `OP` (R18). -/
inductive Op where
  | idle
  /-- The header byte at offset 2 is read next. -/
  | hdr2 (bc : Half)
  /-- The header byte at offset 3 is read next. -/
  | hdr3 (bc : Half)
  /-- The payload byte at offset `ptr` is next and `rem` bits are still to fold. -/
  | body (ptr rem : Half)
  /-- Offset 4 is written next. -/
  | wr4
  /-- Offset 5 is written next. -/
  | wr5
  deriving DecidableEq, Repr

/-- The frame buffer `F` (R20, R30): (offset, byte) pairs with strictly rising offsets below 65536. An offset that is
not listed has no value (R30 "a partial map", U14; assumption 3). -/
abbrev Memory := List Host.Cell

/-- One turn of the block's environment: a move of the host (R25, R153), a reset (R140), or a turn that it passes. -/
inductive HostMove where
  /-- The host does nothing this turn: the block takes its own step, if it has one. -/
  | pass
  /-- The host presents a command word on the command port (R19). -/
  | command (w : Word)
  /-- The host reads a register through the register read port (R17). -/
  | readReg (idx : BitVec 3)
  /-- The host reads a byte of the frame buffer (R25). -/
  | readByte (off : Half)
  /-- The host writes a byte of the frame buffer (R25, R146). -/
  | writeByte (off : Half) (v : Byte)
  /-- The reset input is asserted (R140). -/
  | reset
  deriving DecidableEq, Repr

/-- What a read of the host's returned. -/
inductive HostRead where
  | reg (idx : BitVec 3) (v : Word)
  | byte (off : Half) (v : Byte)
  deriving DecidableEq, Repr

/-- The model's own record of the `WHDR` in flight: its operand (R23 (vii): "with `bc` the operand of the running
`WHDR`") and the bytes that offsets 4 and 5 held when it was accepted (the "old" bytes of R147). -/
structure Running where
  bc : Half
  old4 : Option Byte
  old5 : Option Byte
  deriving DecidableEq, Repr

/-- Everything the spec gives the machine (R21: the table of spec/10_state.md section 1), then the model's own fields. -/
structure State where
  /-- `ACC`, the CRC accumulator (R10). -/
  acc : Half
  /-- `LEN`, the declared length of the frame buffer in bytes (R13). -/
  len : Half
  /-- `STATUS.BUSY` (R14). -/
  busy : Bool
  /-- `STATUS.ERR` (R14). -/
  err : Bool
  /-- `STATUS.LOST` (R14). -/
  lost : Bool
  /-- `CAUSE` (R15). -/
  cause : Cause
  /-- `INFO`, the faulting command word (R16). -/
  info : Word
  /-- `OP`, the in-flight record (R18). -/
  op : Op
  /-- `F`, the frame buffer (R20). -/
  frame : Memory
  /-- The OPEN parameter of R6; no step changes it (assumption 2). -/
  params : Params
  /-- The model's: the moves of the host and the resets still to come, oldest first (R25; assumption 1). -/
  port : List HostMove
  /-- The model's: what the host's last read returned (R17; assumption 7). -/
  lastRead : Option HostRead
  /-- The model's: how many free values have been drawn so far (assumptions 5 and 6). -/
  draws : Nat
  /-- The model's: the `WHDR` in flight, if there is one (assumption 6). -/
  running : Option Running
  /-- The model's: the ghost flag of R128, set at every fault entry and at every drop and cleared by nothing. -/
  everFaulted : Bool
  deriving DecidableEq, Repr

/-- Why the machine stops. No command raises one of these when it is accepted: a fault of the block's own (R120) is a
next state, the fault entry of R126. -/
inductive Fault where
  /-- A read of a frame offset that nothing has written: by a micro-step of `WHDR`, which then does not complete (U14:
  "refuses the read"; R143 makes it the host's duty to have written the byte), or by the host. SAFE: the model stops
  where the platform's memory would return some byte. -/
  | unwrittenByte (off : Half)
  /-- The host writes the frame buffer while a `WHDR` is in flight (R146; U5: "stuck / no move"). SAFE: the model stops
  where the outcome is unspecified. -/
  | hostWriteInFlight (off : Half)
  deriving DecidableEq, Repr

/-- Why an instruction has no meaning in the model. -/
inductive Refusal where
  /-- `exec` would answer it for an instruction without a meaning; every instruction has one. SAFE. -/
  | notModelled (mnemonic : String)
  deriving DecidableEq, Repr

/-- The state right after reset (R24), with the default parameter (R6), nothing written in the frame buffer (R24: its
content is "unspecified to the block") and a host that makes no move. -/
def State.reset : State :=
  { acc := 0xFFFF, len := 0, busy := false, err := false, lost := false, cause := .none, info := 0, op := .idle,
    frame := [], params := Params.default, port := [], lastRead := none, draws := 0, running := none,
    everFaulted := false }

end Sys2Proof.Machine
end

