-- ==== Sys2Proof/Machine/Ops.lean ====
section
/-! DEFINITION. The named operations over the registers and the frame buffer: the byte-wide memory port
(spec/20_memory.md R34, R36), fault entry (spec/60_exceptions.md R126), the drop (R129) and the return (R130). -/

namespace Sys2Proof.Machine

/-! ## The frame buffer -/

/-- The byte at an offset, none where nothing has written one. -/
def Memory.byteAt (m : Memory) (a : Nat) : Option Byte :=
  match m with
  | [] => none
  | c :: m' => if c.1 = a then some c.2 else Memory.byteAt m' a

/-- The frame buffer with the byte `v` at offset `a`, in canonical form if it was. -/
def Memory.setByte (m : Memory) (a : Nat) (v : Byte) : Memory :=
  match m with
  | [] => [(a, v)]
  | c :: m' =>
    if a < c.1 then (a, v) :: c :: m'
    else if a = c.1 then (a, v) :: m'
    else c :: Memory.setByte m' a v

/-- Strictly rising offsets, all of them at least `lo` and below 65536. -/
def Memory.risingFrom (lo : Nat) (m : Memory) : Bool :=
  match m with
  | [] => true
  | c :: m' => decide (lo ≤ c.1) && decide (c.1 < 65536) && Memory.risingFrom (c.1 + 1) m'

/-- The canonical form: strictly rising 16-bit offsets. An unlisted offset has no value, so no entry can equal it. -/
def Memory.wf (m : Memory) : Bool := Memory.risingFrom 0 m

/-- `MemRead(off, 1)` (R8, R34). -/
def memRead (m : Memory) (off : Half) : Except Fault Byte :=
  match m.byteAt off.toNat with
  | some v => .ok v
  | none => .error (.unwrittenByte off)

/-- `MemWrite(off, 1, v)` (R8, R34). -/
def State.storeByte (s : State) (off : Half) (v : Byte) : State := { s with frame := s.frame.setByte off.toNat v }

/-! ## Registers -/

def State.setAcc (s : State) (v : Half) : State := { s with acc := v }
def State.setLen (s : State) (v : Half) : State := { s with len := v }
def State.setOp (s : State) (o : Op) : State := { s with op := o }
def State.setPort (s : State) (p : List HostMove) : State := { s with port := p }

/-- A `WHDR bc` that passed its checks is accepted: R97. The model notes the operand and the old bytes at 4 and 5. -/
def State.beginWhdr (s : State) (bc : Half) : State :=
  { s with
    busy := true, acc := 0xFFFF, op := .hdr2 bc,
    running := some { bc := bc, old4 := s.frame.byteAt 4, old5 := s.frame.byteAt 5 } }

/-- The `WHDR` in flight is complete (R102). -/
def State.finishWhdr (s : State) : State := { s with busy := false, op := .idle, running := none }

/-! ## Faults: entry, drop, return -/

/-- Fault entry, `raise Fault(cause, w)` (R126). -/
def State.raise (s : State) (c : Cause) (w : Word) : State :=
  { s with err := true, cause := c, info := w, everFaulted := true }

/-- The drop of a command while FAULTED (R129). -/
def State.dropCommand (s : State) : State := { s with lost := true, everFaulted := true }

/-- The return from FAULTED: what `CLRERR` clears (R112, R130). -/
def State.clearError (s : State) : State := { s with err := false, lost := false, cause := .none, info := 0 }

/-- The three operating states of R22, for a command other than `CLRERR`: while BUSY it waits, unaccepted and without
effect (R19); while FAULTED it is dropped (R129); while READY it has its effect `ready`. -/
def State.offer (s : State) (ready : State → State) : Host.Outcome State Fault Refusal :=
  if s.busy then .next s
  else if s.err then .next s.dropCommand
  else .next (ready s)

/-- A word that is no command (R122, R54): fault entry with cause 1 while READY. -/
def illegalCommand (w : Word) (s : State) : Host.Outcome State Fault Refusal :=
  s.offer (·.raise .illegalCommand w)

/-! ## The host's moves and reset -/

/-- The host gets a value from a read. -/
def State.sawRead (s : State) (r : HostRead) : State := { s with lastRead := some r }

/-- One free value has been used. -/
def State.countDraw (s : State) : State := { s with draws := s.draws + 1 }

/-- The reset input (R140, R141): every register takes its value of R24, no command is in flight, and the frame buffer
is not accessed. The parameter, the host's coming moves, what the host saw, the draws and the ghost flag of R128 are no
registers of the block and stay. -/
def State.applyReset (s : State) : State :=
  { State.reset with
    frame := s.frame, params := s.params, port := s.port, lastRead := s.lastRead, draws := s.draws,
    everFaulted := s.everFaulted }

end Sys2Proof.Machine
end

