-- ==== Sys2Proof/Machine/Operands.lean ====
section
/-! DEFINITION. The operand forms and the natural-number arithmetic of the commands (spec/30_encoding.md R52,
spec/41_whdr.md R96), and the frame layout (spec/20_memory.md R37). -/

namespace Sys2Proof.Machine

/-! The fixed parameters of R6. -/

/-- `CRC_INIT`. -/
def crcInit : Half := 0xFFFF
/-- `CRC_POLY`. -/
def crcPoly : Half := 0x8005
/-- `HDR_OFF_A`. -/
def hdrOffA : Half := 2
/-- `HDR_OFF_B`. -/
def hdrOffB : Half := 3
/-- `CRC_OFF_HI`. -/
def crcOffHi : Half := 4
/-- `CRC_OFF_LO`. -/
def crcOffLo : Half := 5
/-- `PAYLOAD_OFF`. -/
def payloadOff : Half := 6

/-- The bit count of `UPD`'s row `n` = 0 to 7, read as a natural number (R52). -/
def updCount (n : BitVec 3) : Fin 9 := ⟨n.toNat, by have := n.isLt; omega⟩

/-- `w = bc >> 3`, the whole bytes (R96). -/
def wholeBytes (bc : Half) : Nat := bc.toNat / 8

/-- `p = bc AND 7`, the bits of the partial byte (R96). -/
def partialBits (bc : Half) : Fin 9 := ⟨bc.toNat % 8, by omega⟩

/-- `ceil(a/8)` on naturals (R7). -/
def ceil8 (a : Nat) : Nat := (a + 7) / 8

/-- `need = 6 + ceil(bc/8)`, on naturals (R92). -/
def need (bc : Half) : Nat := 6 + ceil8 bc.toNat

/-- The high byte of the CRC, stored at offset 4 (R31, R95). -/
def crcHi (c : Half) : Byte := c.extractLsb' 8 8

/-- The low byte of the CRC, stored at offset 5 (R31, R95). -/
def crcLo (c : Half) : Byte := c.extractLsb' 0 8

end Sys2Proof.Machine
end

