-- ==== Sys2Proof/Machine/Flags.lean ====
section
/-! DEFINITION. `STATUS`, `CAUSE` and the register read port (spec/10_state.md R14, R15, R17, R22). The fold sets no
flag (spec/40_fold.md R73), so there is no flag computation besides these views. -/

namespace Sys2Proof.Machine

/-- The code of a cause (R121). -/
def Cause.code : Cause → BitVec 2
  | .none => 0
  | .illegalCommand => 1
  | .invalidBitCount => 2
  | .invalidBounds => 3

/-- `LOST ++ ERR ++ BUSY`: `BUSY` is bit 0, `ERR` bit 1, `LOST` bit 2 (R14, R17). -/
def State.statusBits (s : State) : BitVec 3 := BitVec.ofBool s.lost ++ BitVec.ofBool s.err ++ BitVec.ofBool s.busy

/-- `ACC` as the register port shows it: exact while `BUSY = 0`, a free value while `BUSY = 1` (R17, U6). -/
def State.accView (s : State) : Half := if s.busy then Config.busyAcc s.draws else s.acc

/-- The register read port (R17). -/
def State.regPort (s : State) (idx : BitVec 3) : Word :=
  if idx = 0 then s.accView.setWidth 32
  else if idx = 1 then s.len.setWidth 32
  else if idx = 2 then s.statusBits.setWidth 32
  else if idx = 3 then s.cause.code.setWidth 32
  else if idx = 4 then s.info
  else 0

end Sys2Proof.Machine
end

