-- ==== Sys2Proof/Machine/Control.lean ====
section
/-! DEFINITION. The control family (spec/42_control.md): `SETLEN` and `CLRERR`. -/

namespace Sys2Proof.Machine

/-- `SETLEN len` (R110). -/
def execSetlen (len : Half) (s : State) : Host.Outcome State Fault Refusal := s.offer (·.setLen len)

/-- `CLRERR` (R112): executed whenever it is accepted, READY or FAULTED; while BUSY it waits (R19). -/
def execClrerr (s : State) : Host.Outcome State Fault Refusal :=
  if s.busy then .next s else .next s.clearError

end Sys2Proof.Machine
end

