-- ==== Sys2Proof/WellFormed.lean ====
section
/-! DEFINITION. Well-formedness. The types of `Instr` leave no ill-formed term, so the check is on the command word:
the match and mask table of spec/30_encoding.md R51, written apart from the decoder of R53. -/

namespace Sys2Proof

/-- One row of the table of R51. -/
structure Row where
  pattern : Word
  mask : Word
  deriving DecidableEq, Repr

/-- R51: a word is the command of a row exactly when `(w AND mask) = match`. -/
def Row.selects (r : Row) (w : Word) : Bool := w &&& r.mask == r.pattern

def Row.ldacc : Row := { pattern := 0x10000000, mask := 0xFFFF0000 }
def Row.upd : Row := { pattern := 0x20000000, mask := 0xF8FFFF00 }
def Row.upd8 : Row := { pattern := 0x28000000, mask := 0xFFFFFF00 }
def Row.whdr : Row := { pattern := 0x30000000, mask := 0xFFFF0000 }
def Row.setlen : Row := { pattern := 0x40000000, mask := 0xFFFF0000 }
def Row.clrerr : Row := { pattern := 0x50000000, mask := 0xFFFFFFFF }

/-- The six rows of R51, in its order. -/
def opcodeRows : List Row := [.ldacc, .upd, .upd8, .whdr, .setlen, .clrerr]

/-- The row of a command. -/
def Instr.row : Instr → Row
  | .ldacc _ => .ldacc
  | .upd _ _ => .upd
  | .upd8 _ => .upd8
  | .whdr _ => .whdr
  | .setlen _ => .setlen
  | .clrerr => .clrerr

/-- A well-formed command word: one that some row selects. "A word that matches no row is an illegal command" (R51). -/
def legalWord (w : Word) : Bool := opcodeRows.any (·.selects w)

end Sys2Proof
end

