-- ==== Sys2Proof/Decode.lean ====
section
/-! DEFINITION. The decoder and the encoder (spec/30_encoding.md R50 to R54). -/

namespace Sys2Proof

/-- Why a word is an illegal command: the clauses (a) to (f) of R54. -/
inductive Illegal where
  /-- (a) `z != 0`. -/
  | reservedField
  /-- (b) `op` 0 or 6 to 15. -/
  | reservedOpcode
  /-- (c) `n != 0` in `LDACC`, `WHDR`, `SETLEN` or `CLRERR`. -/
  | countNotZero
  /-- (d) `UPD` with `n` = 9 to 15. -/
  | countOutOfRange
  /-- (e) `UPD` with `imm[15:8] != 0`. -/
  | dataHighByte
  /-- (f) `CLRERR` with `imm != 0`. -/
  | operandNotZero
  deriving DecidableEq, Repr

/-! The four fields of format `C` (R50). -/

def opField (w : Word) : BitVec 4 := w.extractLsb' 28 4
def nField (w : Word) : BitVec 4 := w.extractLsb' 24 4
def zField (w : Word) : BitVec 8 := w.extractLsb' 16 8
def immField (w : Word) : Half := w.extractLsb' 0 16

/-- `imm[15:8]`, reserved in `UPD` (R52). -/
def immHi (w : Word) : Byte := w.extractLsb' 8 8

/-- `imm[7:0]`, the data byte of `UPD` (R52). -/
def immLo (w : Word) : Byte := w.extractLsb' 0 8

/-- `UPD n, b` for a bit count the decoder has found to be 0 to 8. -/
def updOf (n : BitVec 4) (b : Byte) : Instr := if n = 8 then .upd8 b else .upd (n.setWidth 3) b

/-- A command whose `n` field must be 0 (R50). -/
def withoutCount (w : Word) (i : Except Illegal Instr) : Except Illegal Instr :=
  if nField w = 0 then i else .error .countNotZero

/-- `UPD` (R53): `n <= 8` and `imm[15:8] = 0`. -/
def decodeUpd (w : Word) : Except Illegal Instr :=
  if nField w ≤ 8 then
    if immHi w = 0 then .ok (updOf (nField w) (immLo w)) else .error .dataHighByte
  else .error .countOutOfRange

/-- `CLRERR` (R53): `imm = 0`. -/
def decodeClrerr (w : Word) : Except Illegal Instr :=
  if immField w = 0 then .ok .clrerr else .error .operandNotZero

/-- The decoder of R53: total on 32-bit words, reading nothing but the word. -/
def decode (w : Word) : Except Illegal Instr :=
  if zField w ≠ 0 then .error .reservedField
  else if opField w = 1 then withoutCount w (.ok (.ldacc (immField w)))
  else if opField w = 2 then decodeUpd w
  else if opField w = 3 then withoutCount w (.ok (.whdr (immField w)))
  else if opField w = 4 then withoutCount w (.ok (.setlen (immField w)))
  else if opField w = 5 then withoutCount w (decodeClrerr w)
  else .error .reservedOpcode

/-- A word of format `C` from its four fields (R50). -/
def assemble (op n : BitVec 4) (z : BitVec 8) (imm : Half) : Word := (op ++ n ++ z ++ imm).setWidth 32

/-- The word of a command (R51, R52). -/
def encode : Instr → Word
  | .ldacc v => assemble 1 0 0 v
  | .upd n b => assemble 2 (n.setWidth 4) 0 (b.setWidth 16)
  | .upd8 b => assemble 2 8 0 (b.setWidth 16)
  | .whdr bc => assemble 3 0 0 bc
  | .setlen len => assemble 4 0 0 len
  | .clrerr => assemble 5 0 0 0

/-- The word the opcode table numbers `w`: bit 0 is the least significant bit of the one 32-bit word a command has
(R50), and bits at or above `nbits` are 0. -/
def tableWord (nbits w : Nat) : Word := BitVec.ofNat 32 (w % 2 ^ nbits)

/-- The command the decoder reads from the table's word, none where it rejects it. -/
def decodeTableWord (nbits w : Nat) : Option Instr := (decode (tableWord nbits w)).toOption

end Sys2Proof
end

