-- ==== Sys2Proof/Machine/Fold.lean ====
section
/-! DEFINITION. The fold family (spec/40_fold.md): `fold1`, `update_crc`, `LDACC` and `UPD`. -/

namespace Sys2Proof.Machine

/-- The one-bit fold of R70. -/
def fold1 (acc : Half) (b : Bool) : Half :=
  if acc.getLsbD 15 ^^ b then acc <<< 1 ^^^ crcPoly else acc <<< 1

/-- The sequence `a_0 = acc`, `a_k = fold1(a_(k-1), value[8-k])` of R72. -/
def foldBits (value : Byte) (acc : Half) : Nat → Half
  | 0 => acc
  | k + 1 => fold1 (foldBits value acc k) (value.getLsbD (8 - (k + 1)))

/-- `update_crc(value, acc, n)` (R72), on the domain the spec gives it, `n` = 0 to 8 (U2). -/
def updateCrc (value : Byte) (acc : Half) (n : Fin 9) : Half := foldBits value acc n.val

/-- `LDACC v` (R75). -/
def execLdacc (v : Half) (s : State) : Host.Outcome State Fault Refusal := s.offer (·.setAcc v)

/-- `UPD n, b`, `n` = 0 to 7 (R76). -/
def execUpd (n : BitVec 3) (b : Byte) (s : State) : Host.Outcome State Fault Refusal :=
  s.offer fun s => s.setAcc (updateCrc b s.acc (updCount n))

/-- `UPD 8, b` (R76). -/
def execUpd8 (b : Byte) (s : State) : Host.Outcome State Fault Refusal :=
  s.offer fun s => s.setAcc (updateCrc b s.acc 8)

end Sys2Proof.Machine
end

