-- ==== Sys2Proof/Machine/Whdr.lean ====
section
/-! DEFINITION. The frame family (spec/41_whdr.md): `WHDR` is accepted in one step (R92, R97), and the block then takes
the micro-steps of R98 to R102. The one-step description of R91 stands at the end; R103 says that the two agree. -/

namespace Sys2Proof.Machine

/-- The effect of accepting `WHDR bc` while READY: the checks of R92 in their order, then R97. `INFO` takes the command
word, which is the command's only encoding. -/
def State.acceptWhdr (s : State) (bc : Half) : State :=
  if s.params.bitcntMax.toNat < bc.toNat then s.raise .invalidBitCount (encode (.whdr bc))
  else if s.len.toNat < need bc then s.raise .invalidBounds (encode (.whdr bc))
  else s.beginWhdr bc

/-- `WHDR bc` (R90). -/
def execWhdr (bc : Half) (s : State) : Host.Outcome State Fault Refusal := s.offer (·.acceptWhdr bc)

/-! ## The micro-steps -/

/-- Read the byte at `off`, fold its `n` most significant bits into `ACC` and go on with `o`. -/
def State.foldFrom (s : State) (off : Half) (n : Fin 9) (o : Op) : Host.Outcome State Fault Refusal :=
  match memRead s.frame off with
  | .ok v => .next ((s.setAcc (updateCrc v s.acc n)).setOp o)
  | .error f => .fault f

/-- R98. -/
def stepHdr2 (bc : Half) (s : State) : Host.Outcome State Fault Refusal := s.foldFrom hdrOffA 8 (.hdr3 bc)

/-- R99. -/
def stepHdr3 (bc : Half) (s : State) : Host.Outcome State Fault Refusal := s.foldFrom hdrOffB 8 (.body payloadOff bc)

/-- R100 where `rem >= 8`, else R101. -/
def stepBody (ptr rem : Half) (s : State) : Host.Outcome State Fault Refusal :=
  if h : 8 ≤ rem.toNat then s.foldFrom ptr 8 (.body (ptr + 1) (rem - 8))
  else if rem = 0 then .next (s.setOp .wr4)
  else s.foldFrom ptr ⟨rem.toNat, by omega⟩ .wr4

/-- R102, the store of the high byte. -/
def stepWr4 (s : State) : State := (s.storeByte crcOffHi (crcHi s.acc)).setOp .wr5

/-- R102, the store of the low byte; the command is complete. -/
def stepWr5 (s : State) : State := (s.storeByte crcOffLo (crcLo s.acc)).finishWhdr

/-- The block's own step (R103): one micro-step of the `WHDR` in flight. While `OP = Idle` the block never moves of its
own accord (R25). -/
def blockStep (s : State) : Host.Outcome State Fault Refusal :=
  match s.op with
  | .idle => .next s
  | .hdr2 bc => stepHdr2 bc s
  | .hdr3 bc => stepHdr3 bc s
  | .body ptr rem => stepBody ptr rem s
  | .wr4 => .next (stepWr4 s)
  | .wr5 => .next (stepWr5 s)

/-- The offset that the next micro-step reads, if it reads one (R98 to R102). -/
def Op.reads : Op → Option Half
  | .idle => none
  | .hdr2 _ => some hdrOffA
  | .hdr3 _ => some hdrOffB
  | .body ptr rem => if rem = 0 then none else some ptr
  | .wr4 => none
  | .wr5 => none

/-- The offset that the next micro-step writes, if it writes one (R102). -/
def Op.writes : Op → Option Half
  | .idle => none
  | .hdr2 _ => none
  | .hdr3 _ => none
  | .body _ _ => none
  | .wr4 => some crcOffHi
  | .wr5 => some crcOffLo

/-! ## The one-step description, R91 -/

/-- Fold in the byte at `off` with `n` bits: `ACC <- update_crc(MemRead(off, 1), ACC, n)`. -/
def foldByte (m : Memory) (off : Half) (n : Fin 9) (acc : Half) : Except Fault Half :=
  match memRead m off with
  | .ok v => .ok (updateCrc v acc n)
  | .error f => .error f

/-- Step 3 of R91: `k` whole bytes from offset `ptr` upwards. -/
def foldWhole (m : Memory) (acc : Half) (ptr : Half) : Nat → Except Fault Half
  | 0 => .ok acc
  | k + 1 =>
    match foldByte m ptr 8 acc with
    | .ok a => foldWhole m a (ptr + 1) k
    | .error f => .error f

/-- Step 4 of R91: the partial byte at offset `ptr`, not read when there is none. -/
def foldPartial (m : Memory) (ptr : Half) (p : Fin 9) (acc : Half) : Except Fault Half :=
  if p = 0 then .ok acc else foldByte m ptr p acc

/-- Steps 1 to 4 of R91: the CRC of the frame, a function of `bc` and the protected window alone (R12). -/
def frameCrc (m : Memory) (bc : Half) : Except Fault Half :=
  match foldByte m hdrOffA 8 crcInit with
  | .error f => .error f
  | .ok a2 =>
    match foldByte m hdrOffB 8 a2 with
    | .error f => .error f
    | .ok a3 =>
      match foldWhole m a3 payloadOff (wholeBytes bc) with
      | .error f => .error f
      | .ok a => foldPartial m (payloadOff + BitVec.ofNat 16 (wholeBytes bc)) (partialBits bc) a

/-- Step 5 of R91: the CRC stored big-endian at offsets 4 and 5 (R31), and left in `ACC` (R95). -/
def State.storeCrc (s : State) (c : Half) : State :=
  ((s.setAcc c).storeByte crcOffHi (crcHi c)).storeByte crcOffLo (crcLo c)

/-- `WHDR bc` in one step, its checks passed (R91). -/
def whdrAtomic (bc : Half) (s : State) : Host.Outcome State Fault Refusal :=
  match frameCrc s.frame bc with
  | .ok c => .next (s.storeCrc c)
  | .error f => .fault f

end Sys2Proof.Machine
end

