-- ==== Sys2Proof/Machine/Dispatch.lean ====
section
/-! DEFINITION. The meaning of every command, one arm per constructor (spec/60_exceptions.md R131). -/

namespace Sys2Proof.Machine

def exec (i : Instr) (s : State) : Host.Outcome State Fault Refusal :=
  match i with
  | .ldacc v => Sys2Proof.Machine.execLdacc v s
  | .upd n b => Sys2Proof.Machine.execUpd n b s
  | .upd8 b => Sys2Proof.Machine.execUpd8 b s
  | .whdr bc => Sys2Proof.Machine.execWhdr bc s
  | .setlen len => Sys2Proof.Machine.execSetlen len s
  | .clrerr => Sys2Proof.Machine.execClrerr s

end Sys2Proof.Machine
end

