-- ==== Sys2Proof/Machine/HostPort.lean ====
section
/-! DEFINITION. What the host can do besides presenting a command (spec/10_state.md R17, R25;
spec/70_reset_and_hazards.md R146, R147, R153). -/

namespace Sys2Proof.Machine

/-- Whether a read of register `idx` uses a free value: index 0 while `BUSY = 1` (R17). -/
def State.drawsAcc (s : State) (idx : BitVec 3) : Bool := s.busy && decide (idx = 0)

/-- The host reads a register (R17): at any time, with no side effect on the block. -/
def hostReadReg (idx : BitVec 3) (s : State) : State :=
  let t := s.sawRead (.reg idx (s.regPort idx))
  if s.drawsAcc idx then t.countDraw else t

/-- Whether a read of offset `off` by the host is one of R147: offset 4 or 5 while a `WHDR` is in flight. -/
def State.crcByteInFlight (s : State) (off : Half) : Bool :=
  s.busy && (decide (off = crcOffHi) || decide (off = crcOffLo))

/-- The byte that the `WHDR` in flight will store, or has stored, at offset 4 or 5, if its reads succeed. -/
def newCrcByte (m : Memory) (r : Running) (off : Half) : Option Byte :=
  match frameCrc m r.bc with
  | .ok c => some (if off = crcOffHi then crcHi c else crcLo c)
  | .error _ => none

/-- The byte that offset 4 or 5 held when the `WHDR` in flight was accepted. -/
def Running.oldCrcByte (r : Running) (off : Half) : Option Byte := if off = crcOffHi then r.old4 else r.old5

/-- What the host sees at offset 4 or 5 while `BUSY = 1`: "the old or the new byte, unspecified which" (R147). -/
def State.crcByteSeen (s : State) (off : Half) : Option Byte :=
  match s.running with
  | none => s.frame.byteAt off.toNat
  | some r =>
    if Config.busySeesNew s.draws then (newCrcByte s.frame r off).or (r.oldCrcByte off) else r.oldCrcByte off

/-- What the host sees at an offset: while a `WHDR` is in flight offsets 4 and 5 are as R147 says, and every other
offset, and every offset while `BUSY = 0`, shows the byte in memory. -/
def State.byteSeen (s : State) (off : Half) : Option Byte :=
  if s.crcByteInFlight off then s.crcByteSeen off else s.frame.byteAt off.toNat

/-- The host reads a byte of the frame buffer, at any time (R25). -/
def hostReadByte (off : Half) (s : State) : Host.Outcome State Fault Refusal :=
  match s.byteSeen off with
  | none => .fault (.unwrittenByte off)
  | some v =>
    let t := s.sawRead (.byte off v)
    .next (if s.crcByteInFlight off then t.countDraw else t)

/-- The host writes a byte of the frame buffer: a move it has only while `OP = Idle` (R146, U5). -/
def hostWriteByte (off : Half) (v : Byte) (s : State) : Host.Outcome State Fault Refusal :=
  if s.op = .idle then .next (s.storeByte off v) else .fault (.hostWriteInFlight off)

end Sys2Proof.Machine
end

