-- ==== Sys2Proof/Machine/Step.lean ====
section
/-! DEFINITION. One step of the machine: the block, its host and its reset input (spec/10_state.md R25). -/

namespace Sys2Proof.Machine

/-- The acceptance of one command word, `accept(w)` of R131. -/
def acceptWord (w : Word) (s : State) : Host.Outcome State Fault Refusal :=
  match decode w with
  | .ok i => exec i s
  | .error _ => illegalCommand w s

/-- One step. The head of `port` says whose turn it is: the host's (a command, a read, a write), the reset input's, or,
where the host passes or makes no further move, the block's own. A command presented while `BUSY = 1` stays at the head,
waiting, and the block takes its own step (R19). -/
def step (s : State) : Host.Outcome State Fault Refusal :=
  match s.port with
  | [] => blockStep s
  | .pass :: rest => blockStep (s.setPort rest)
  | .command w :: rest => if s.busy then blockStep s else acceptWord w (s.setPort rest)
  | .readReg idx :: rest => .next (hostReadReg idx (s.setPort rest))
  | .readByte off :: rest => hostReadByte off (s.setPort rest)
  | .writeByte off v :: rest => hostWriteByte off v (s.setPort rest)
  | .reset :: rest => .next (s.setPort rest).applyReset

/-- `s` with the table's word presented on the command port as the host's next move (assumption 1). -/
def State.withFetchWord (s : State) (nbits w : Nat) : State := s.setPort (.command (tableWord nbits w) :: s.port)

end Sys2Proof.Machine
end

