-- ==== Sys2Proof/Safety.lean ====
section
/-! DEFINITION. The terms the claims use: the operating states, the invariant, runs of the block's own steps, the source's
formulation of the fold, and the protected bits of a frame. -/

namespace Sys2Proof.Machine

/-! ## Operating states (spec/10_state.md R22) -/

/-- READY: commands are accepted and executed. -/
abbrev State.Ready (s : State) : Prop := s.busy = false ∧ s.err = false

/-- FAULTED: commands are accepted and, except `CLRERR`, dropped. -/
abbrev State.Faulted (s : State) : Prop := s.busy = false ∧ s.err = true

/-- The two checks of R92 pass. -/
abbrev State.ChecksPass (s : State) (bc : Half) : Prop := bc.toNat ≤ s.params.bitcntMax.toNat ∧ need bc ≤ s.len.toNat

/-- The run has gone wrong: a fault is recorded or a command was lost (R148, R152). -/
abbrev State.GoneWrong (s : State) : Prop := s.err = true ∨ s.lost = true

/-- The run is over: the last word has been accepted and no `WHDR` is in flight (R152). -/
abbrev State.RunOver (s : State) : Prop := s.port = [] ∧ s.busy = false

/-- The protected window is written, the part of the input contract of R143 that the block cannot check. -/
def WindowWritten (m : Memory) (bc : Half) : Prop :=
  ∀ a : Nat, a = 2 ∨ a = 3 ∨ (6 ≤ a ∧ a < need bc) → (m.byteAt a).isSome = true

/-! ## The invariant (R23) -/

/-- The in-flight record fits the running `WHDR`: R23 (vii) for `Body`, and for the other values of `OP` what makes it
inductive. -/
def State.InFlight (s : State) : Prop :=
  match s.op, s.running with
  | .idle, none => True
  | .hdr2 bc, some r => bc = r.bc ∧ need r.bc ≤ s.len.toNat
  | .hdr3 bc, some r => bc = r.bc ∧ need r.bc ≤ s.len.toNat
  | .body ptr rem, some r =>
    rem.toNat ≤ r.bc.toNat ∧ (r.bc.toNat - rem.toNat) % 8 = 0 ∧ ptr.toNat = 6 + (r.bc.toNat - rem.toNat) / 8 ∧
      ptr.toNat + ceil8 rem.toNat = need r.bc ∧ need r.bc ≤ s.len.toNat
  | .wr4, some r => need r.bc ≤ s.len.toNat
  | .wr5, some r => need r.bc ≤ s.len.toNat
  | _, _ => False

/-- The invariants of R23 ((i) holds by the type of `ACC`), with the canonical form of the frame buffer and what the
model's own fields keep. -/
structure State.Inv (s : State) : Prop where
  lost_err : s.lost = true → s.err = true
  err_cause : s.err = false ↔ s.cause = .none
  err_info : s.err = false → s.info = 0
  busy_err : s.busy = true → s.err = false
  idle_busy : s.op = .idle ↔ s.busy = false
  in_flight : s.InFlight
  frame_wf : s.frame.wf = true
  err_ever : s.err = true → s.everFaulted = true

/-! ## Runs -/

/-- `n` of the block's own steps, stopping at the first fault. -/
def blockRun : Nat → State → Host.Outcome State Fault Refusal
  | 0, s => .next s
  | n + 1, s =>
    match blockStep s with
    | .next t => blockRun n t
    | .fault f => .fault f
    | .refused r => .refused r

/-- The number of micro-steps after the accept: `2 + w + 1 + 2` (R103). -/
def microSteps (bc : Half) : Nat := 2 + wholeBytes bc + 1 + 2

/-- Commands executed one after the other, each complete before the next (R19), stopping at the first fault. -/
def execAll : List Instr → State → Host.Outcome State Fault Refusal
  | [], s => .next s
  | i :: is, s =>
    match exec i s with
    | .next t => execAll is t
    | .fault f => .fault f
    | .refused r => .refused r

/-! ## The source's fold (spec/40_fold.md R71) -/

/-- The source's loop on unbounded naturals: shift `V` and `C`, test bit 16, XOR the constant. -/
def sourceLoop (V C : Nat) : Nat → Nat
  | 0 => C
  | k + 1 =>
    if ((C <<< 1) ^^^ (V <<< 1)) &&& 0x10000 ≠ 0 then sourceLoop (V <<< 1) ((C <<< 1) ^^^ 0x8005) k
    else sourceLoop (V <<< 1) (C <<< 1) k

/-- `update_crc_source(value, crc, bit_count)` (R71). -/
def updateCrcSource (value : Byte) (crc bitCount : Nat) : Nat := sourceLoop (value.toNat <<< 8) crc bitCount

/-! ## The protected bits -/

/-- Bit `i` of the protected bits: the 16 bits of offsets 2 and 3, then the bit stream that starts at offset 6, each byte
most significant bit first (R32, R91). -/
def frameBit (m : Memory) (i : Nat) : Option Bool :=
  (m.byteAt (if i < 16 then 2 + i / 8 else 6 + (i - 16) / 8)).map (·.getLsbD (7 - i % 8))

/-- `bits` are the protected bits of a frame: exactly `16 + bc` of them (R96). -/
def ProtectedBits (m : Memory) (bc : Half) (bits : List Bool) : Prop :=
  bits.length = 16 + bc.toNat ∧ ∀ i, i < 16 + bc.toNat → frameBit m i = bits[i]?

/-- Bit `k` of the byte at `off` is a protected bit (R37). -/
def ProtectedBit (bc off : Half) (k : Nat) : Prop :=
  k < 8 ∧ (off = 2 ∨ off = 3 ∨ (6 ≤ off.toNat ∧ 8 * (off.toNat - 6) + (7 - k) < bc.toNat))

/-- The commands of R93 that fold a frame by hand: `INIT`, `UPDB` of the header and of the whole payload bytes, and, where
there is a partial byte, `UPD p`. -/
def handFold (bc : Half) (h2 h3 : Byte) (whole : List Byte) (last : Byte) : List Instr :=
  [.init, .updb h2, .updb h3] ++ whole.map .updb ++
    (if bc.toNat % 8 = 0 then [] else [.upd (BitVec.ofNat 3 (bc.toNat % 8)) last])

end Sys2Proof.Machine
end

