-- ==== Sys2Proof/Certificates/Slice0/Obligations.lean ====
section
/-! DEFINITION. The statements for the provers. Each docstring names the rule of spec/ it formalises. `port`, `lastRead`,
`draws` and `running` are the model's own fields (assumptions 1, 5, 6, 7), `everFaulted` is the ghost flag of R128. -/

open Sys2Proof Sys2Proof.Machine

/-! ## Encoding (spec/30_encoding.md) -/

/-- R51 to R53: every command is decoded from its own word, with every operand at every value. -/
def Obligations.EncodeThenDecode : Prop := ∀ i : Instr, decode (encode i) = .ok i

/-- R51 to R53: a legal word is the word of the command it is decoded to, so that no legal command has two words and
`encode` gives back the command word that `INFO` must hold. -/
def Obligations.DecodeThenEncode : Prop := ∀ (w : Word) (i : Instr), decode w = .ok i → encode i = w

/-- R51: a word is the command of a row exactly when `(w AND mask) = match`; the rows are disjoint; a word that matches no
row is illegal. -/
def Obligations.OpcodeTableSelectsCommands : Prop :=
  ∀ w : Word,
    (∀ r ∈ opcodeRows, r.selects w = true ↔ ∃ i, decode w = .ok i ∧ i.row = r) ∧
    (∀ r ∈ opcodeRows, ∀ r' ∈ opcodeRows, r.selects w = true → r'.selects w = true → r = r') ∧
    ((∀ r ∈ opcodeRows, r.selects w = false) → ∃ e, decode w = .error e)

/-- R54: the illegal words are exactly the clauses (a) to (f), and while the block is READY or FAULTED an illegal word
raises `IllegalCommand` or is dropped. -/
def Obligations.IllegalWordsExactly : Prop :=
  (∀ w : Word, (∃ e, decode w = .error e) ↔
    zField w ≠ 0 ∨
    (opField w = 0 ∨ 6 ≤ (opField w).toNat) ∨
    ((opField w = 1 ∨ opField w = 3 ∨ opField w = 4 ∨ opField w = 5) ∧ nField w ≠ 0) ∨
    (opField w = 2 ∧ 9 ≤ (nField w).toNat) ∨
    (opField w = 2 ∧ immHi w ≠ 0) ∨
    (opField w = 5 ∧ immField w ≠ 0)) ∧
  (∃ e, decode 0x00000000 = .error e) ∧ (∃ e, decode 0xFFFFFFFF = .error e) ∧
  (∀ (w : Word) (e : Illegal) (s : State), decode w = .error e →
    (s.Ready → acceptWord w s =
      .next { s with err := true, cause := .illegalCommand, info := w, everFaulted := true }) ∧
    (s.Faulted → acceptWord w s = .next { s with lost := true, everFaulted := true }))

/-- R55: 198913 words are legal. -/
def Obligations.LegalWordCount : Prop := Nat.card { w : Word // ∃ i, decode w = .ok i } = 198913

/-- R58: the worked encodings and the illegal words. -/
def Obligations.WorkedEncodings : Prop :=
  decode 0x1000FFFF = .ok (.ldacc 0xFFFF) ∧ decode 0x10000000 = .ok (.ldacc 0) ∧
  decode 0x280000FF = .ok (.upd8 0xFF) ∧ decode 0x2800003C = .ok (.upd8 0x3C) ∧
  decode 0x21000080 = .ok (.upd 1 0x80) ∧ decode 0x200000A5 = .ok (.upd 0 0xA5) ∧
  decode 0x230000A0 = .ok (.upd 3 0xA0) ∧ decode 0x30000010 = .ok (.whdr 16) ∧
  decode 0x30000000 = .ok (.whdr 0) ∧ decode 0x3000FFFF = .ok (.whdr 65535) ∧
  decode 0x40000008 = .ok (.setlen 8) ∧ decode 0x400003E8 = .ok (.setlen 1000) ∧
  decode 0x50000000 = .ok .clrerr ∧
  decode 0x00000000 = .error .reservedOpcode ∧ decode 0x60000000 = .error .reservedOpcode ∧
  decode 0x29000000 = .error .countOutOfRange ∧ decode 0x28000100 = .error .dataHighByte ∧
  decode 0x10010000 = .error .reservedField ∧ decode 0x31000010 = .error .countNotZero ∧
  decode 0x50000001 = .error .operandNotZero

/-! ## The step (spec/60_exceptions.md R131, spec/10_state.md R19, R25) -/

/-- When the host presents a word and the block is not busy, the step accepts it: it runs the decoded command, or rejects
the illegal word, with the move taken off `port` (assumption 1). `withFetchWord` presents a word. -/
def Obligations.StepRunsThePresentedCommand : Prop :=
  (∀ (s : State) (w : Word) (rest : List HostMove), s.port = .command w :: rest → s.busy = false →
    (∀ i, decode w = .ok i → step s = exec i { s with port := rest }) ∧
    (∀ e, decode w = .error e → step s = illegalCommand w { s with port := rest })) ∧
  (∀ (s : State) (i : Instr), s.busy = false → step (s.withFetchWord 32 (encode i).toNat) = exec i s)

/-- R131: the acceptance of a word, the whole of its pseudocode, for every word and every state with `BUSY = 0`. -/
def Obligations.AcceptFollowsThePseudocode : Prop :=
  ∀ (w : Word) (s : State), s.busy = false → acceptWord w s = .next
    (if s.err = true then
      if w = 0x50000000 then { s with err := false, lost := false, cause := .none, info := 0 }
      else { s with lost := true, everFaulted := true }
    else
      match decode w with
      | .error _ => { s with err := true, cause := .illegalCommand, info := w, everFaulted := true }
      | .ok (.ldacc v) => { s with acc := v }
      | .ok (.upd n b) => { s with acc := updateCrc b s.acc (updCount n) }
      | .ok (.upd8 b) => { s with acc := updateCrc b s.acc 8 }
      | .ok (.setlen len) => { s with len := len }
      | .ok .clrerr => { s with err := false, lost := false, cause := .none, info := 0 }
      | .ok (.whdr bc) =>
        if s.params.bitcntMax.toNat < bc.toNat then
          { s with err := true, cause := .invalidBitCount, info := w, everFaulted := true }
        else if s.len.toNat < 6 + (bc.toNat + 7) / 8 then
          { s with err := true, cause := .invalidBounds, info := w, everFaulted := true }
        else s.beginWhdr bc)

/-- R19: while `BUSY = 1` a presented command waits, unaccepted and without effect, and the block takes its own step; a
command offered to the block then changes nothing. -/
def Obligations.CommandWaitsWhileBusy : Prop :=
  ∀ s : State, s.busy = true →
    (∀ i, exec i s = .next s) ∧
    (∀ (w : Word) (rest : List HostMove), s.port = .command w :: rest →
      step s = blockStep s ∧ ∀ t, step s = .next t → t.port = s.port)

/-! ## The fold (spec/40_fold.md) -/

/-- R70: the one-bit fold, bit by bit. -/
def Obligations.FoldOneBitByBit : Prop :=
  ∀ (acc : Half) (b : Bool),
    (fold1 acc b).getLsbD 0 = (acc.getLsbD 15 ^^ b) ∧
    (fold1 acc b).getLsbD 1 = acc.getLsbD 0 ∧
    (fold1 acc b).getLsbD 2 = (acc.getLsbD 1 ^^ (acc.getLsbD 15 ^^ b)) ∧
    (∀ i, 3 ≤ i → i ≤ 14 → (fold1 acc b).getLsbD i = acc.getLsbD (i - 1)) ∧
    (fold1 acc b).getLsbD 15 = (acc.getLsbD 14 ^^ (acc.getLsbD 15 ^^ b))

/-- R72: `update_crc` is the sequence `a_0 .. a_n`, it consumes exactly the `n` most significant bits of `value`, and the
bits below them have no effect. -/
def Obligations.UpdateCrcConsumesTheTopBits : Prop :=
  (∀ (value : Byte) (acc : Half) (n : Fin 9) (a : Nat → Half), a 0 = acc →
    (∀ k, 1 ≤ k → k ≤ n.val → a k = fold1 (a (k - 1)) (value.getLsbD (8 - k))) → updateCrc value acc n = a n.val) ∧
  (∀ (v v' : Byte) (acc : Half) (n : Fin 9), (∀ j, 8 - n.val ≤ j → j < 8 → v.getLsbD j = v'.getLsbD j) →
    updateCrc v acc n = updateCrc v' acc n)

/-- R71: the low 16 bits of the source's unmasked formulation, on a `crc` of any width, are `update_crc` of the low 16
bits. -/
def Obligations.UpdateCrcMatchesTheSource : Prop :=
  ∀ (value : Byte) (crc : Nat) (n : Fin 9),
    BitVec.ofNat 16 (updateCrcSource value crc n.val) = updateCrc value (BitVec.ofNat 16 crc) n

/-- R74 (a) and (b): no bits fold to the identity, and a fold of `a + b` bits is a fold of `a` bits and then one of `b`. -/
def Obligations.UpdateCrcSplits : Prop :=
  (∀ (v : Byte) (acc : Half), updateCrc v acc 0 = acc) ∧
  (∀ (v : Byte) (acc : Half) (n a b : Fin 9), n.val = a.val + b.val →
    updateCrc v acc n = updateCrc (v <<< a.val) (updateCrc v acc a) b)

/-- R74 (d) and (f): the fold is linear over GF(2), with the unit responses. -/
def Obligations.UpdateCrcIsLinear : Prop :=
  (∀ (a a' : Half) (b b' : Bool), fold1 (a ^^^ a') (b ^^ b') = fold1 a b ^^^ fold1 a' b') ∧
  (∀ (v v' : Byte) (a a' : Half) (n : Fin 9),
    updateCrc (v ^^^ v') (a ^^^ a') n = updateCrc v a n ^^^ updateCrc v' a' n) ∧
  (∀ n : Fin 9, updateCrc 0 0 n = 0) ∧
  fold1 0 true = 0x8005 ∧ fold1 0x8000 false = 0x8005 ∧ fold1 0x8000 true = 0 ∧ fold1 0 false = 0

/-- R74 (e): for fixed data the fold is a bijection on 16-bit values. -/
def Obligations.UpdateCrcIsBijective : Prop :=
  (∀ b : Bool, Function.Bijective (fun acc : Half => fold1 acc b)) ∧
  (∀ (v : Byte) (n : Fin 9), Function.Bijective (fun acc : Half => updateCrc v acc n))

/-! ## LDACC, UPD, SETLEN, CLRERR -/

/-- R75, whole: encoding, effect while READY, drop while FAULTED, and the words that are not `LDACC`. -/
def Obligations.LdaccLoadsTheAccumulator : Prop :=
  (∀ (v : Half) (s : State),
    encode (.ldacc v) = (0x1000#16 ++ v).setWidth 32 ∧
    (s.Ready → exec (.ldacc v) s = .next { s with acc := v }) ∧
    (s.Faulted → exec (.ldacc v) s = .next { s with lost := true, everFaulted := true })) ∧
  (∀ w : Word, opField w = 1 → nField w ≠ 0 ∨ zField w ≠ 0 → ∃ e, decode w = .error e)

/-- R76, whole, for both rows of the opcode table: encoding, effect while READY, drop while FAULTED, and the words that
are not `UPD`, which raise `IllegalCommand` without changing `ACC`. -/
def Obligations.UpdFoldsTheTopBits : Prop :=
  (∀ (n : BitVec 3) (b : Byte) (s : State),
    encode (.upd n b) = (0x2#4 ++ n.setWidth 4 ++ 0x0000#16 ++ b).setWidth 32 ∧
    (s.Ready → exec (.upd n b) s = .next { s with acc := updateCrc b s.acc (updCount n) }) ∧
    (s.Faulted → exec (.upd n b) s = .next { s with lost := true, everFaulted := true })) ∧
  (∀ (b : Byte) (s : State),
    encode (.upd8 b) = (0x2#4 ++ 8#4 ++ 0x0000#16 ++ b).setWidth 32 ∧
    (s.Ready → exec (.upd8 b) s = .next { s with acc := updateCrc b s.acc 8 }) ∧
    (s.Faulted → exec (.upd8 b) s = .next { s with lost := true, everFaulted := true })) ∧
  (∀ (w : Word) (s : State), opField w = 2 → 9 ≤ (nField w).toNat ∨ immHi w ≠ 0 ∨ zField w ≠ 0 →
    (∃ e, decode w = .error e) ∧
    (s.Ready → acceptWord w s =
      .next { s with err := true, cause := .illegalCommand, info := w, everFaulted := true }))

/-- R110, whole: encoding, effect while READY, drop while FAULTED, the words that are not `SETLEN`, the lengths below 6,
with which every `WHDR` that is not stopped by check 1 faults with `InvalidBounds`, and that `LEN` stays in force until the
next `SETLEN` or reset. -/
def Obligations.SetlenSetsTheLength : Prop :=
  (∀ (len : Half) (s : State),
    encode (.setlen len) = (0x4000#16 ++ len).setWidth 32 ∧
    (s.Ready → exec (.setlen len) s = .next { s with len := len }) ∧
    (s.Faulted → exec (.setlen len) s = .next { s with lost := true, everFaulted := true })) ∧
  (∀ w : Word, opField w = 4 → nField w ≠ 0 ∨ zField w ≠ 0 → ∃ e, decode w = .error e) ∧
  (∀ (s : State) (bc : Half), s.Ready → s.len.toNat < 6 → bc.toNat ≤ s.params.bitcntMax.toNat →
    ∃ t, exec (.whdr bc) s = .next t ∧ t.err = true ∧ t.cause = .invalidBounds) ∧
  (∀ s t : State, step s = .next t → t.len = s.len ∨
    (∃ w len rest, s.port = .command w :: rest ∧ decode w = .ok (.setlen len)) ∨ (∃ rest, s.port = .reset :: rest))

/-- R112, whole: `CLRERR` clears the four fault fields whenever it is accepted, changes nothing while READY, and its word
is the only one; with a non-zero `n`, `z` or `imm` the word is illegal, raises `IllegalCommand` while READY and is dropped
while FAULTED. -/
def Obligations.ClrerrReturnsToReady : Prop :=
  encode .clrerr = 0x50000000 ∧
  (∀ s : State, s.busy = false →
    exec .clrerr s = .next { s with err := false, lost := false, cause := .none, info := 0 }) ∧
  (∀ s : State, s.Inv → s.Ready → exec .clrerr s = .next s) ∧
  (∀ (w : Word) (s : State), opField w = 5 → nField w ≠ 0 ∨ zField w ≠ 0 ∨ immField w ≠ 0 →
    (∃ e, decode w = .error e) ∧
    (s.Ready → acceptWord w s =
      .next { s with err := true, cause := .illegalCommand, info := w, everFaulted := true }) ∧
    (s.Faulted → acceptWord w s = .next { s with lost := true, everFaulted := true }))

/-- The frame of the four commands that touch no memory (R11, R14, R75, R76, R110, R112): whatever the operating state,
every byte of the frame buffer and every field is unchanged but the one register the command writes, `LOST` at a drop, and
what `CLRERR` clears. -/
def Obligations.RegisterCommandsFrame : Prop :=
  ∀ (i : Instr) (s t : State), (∀ bc, i ≠ .whdr bc) → exec i s = .next t →
    (∀ a, t.frame.byteAt a = s.frame.byteAt a) ∧
    t.busy = s.busy ∧ t.op = s.op ∧ t.running = s.running ∧ t.params = s.params ∧ t.port = s.port ∧
    t.lastRead = s.lastRead ∧ t.draws = s.draws ∧
    (((∀ v, i ≠ .ldacc v) ∧ (∀ n b, i ≠ .upd n b) ∧ (∀ b, i ≠ .upd8 b)) → t.acc = s.acc) ∧
    ((∀ len, i ≠ .setlen len) → t.len = s.len) ∧
    (i ≠ .clrerr → t.err = s.err ∧ t.cause = s.cause ∧ t.info = s.info ∧
      (s.err = false → t.lost = s.lost ∧ t.everFaulted = s.everFaulted) ∧
      (s.err = true → t.acc = s.acc ∧ t.len = s.len)) ∧
    (i = .clrerr → t.everFaulted = s.everFaulted)

/-! ## Faults (spec/60_exceptions.md) -/

/-- R122: an illegal word accepted while READY enters the fault with cause 1 and the word in `INFO`; `UPD` words with a
bit count of 9 to 15 are among the illegal ones. -/
def Obligations.IllegalWordFaults : Prop :=
  (∀ (s : State) (w : Word) (rest : List HostMove) (e : Illegal), s.port = .command w :: rest → s.Ready →
    decode w = .error e →
    step s = .next
      { s with port := rest, err := true, cause := .illegalCommand, info := w, everFaulted := true }) ∧
  (∀ w : Word, opField w = 2 → 9 ≤ (nField w).toNat → ∃ e, decode w = .error e)

/-- R129: any word but the legal `CLRERR` word, accepted while FAULTED, sets `LOST`, and nothing else changes. -/
def Obligations.CommandDroppedWhileFaulted : Prop :=
  ∀ (s : State) (w : Word) (rest : List HostMove), s.port = .command w :: rest → s.Faulted → w ≠ 0x50000000 →
    step s = .next { s with port := rest, lost := true, everFaulted := true }

/-- R92, R123, R125: the checks of `WHDR` in their order; each is a fault entry with the presented word in `INFO`, which
writes nothing else. With the default `BITCNT_MAX` check 1 never fires. -/
def Obligations.WhdrChecksInOrder : Prop :=
  (∀ (s : State) (w : Word) (bc : Half) (rest : List HostMove), s.port = .command w :: rest → s.Ready →
    decode w = .ok (.whdr bc) →
    (s.params.bitcntMax.toNat < bc.toNat → step s = .next
      { s with port := rest, err := true, cause := .invalidBitCount, info := w, everFaulted := true }) ∧
    (bc.toNat ≤ s.params.bitcntMax.toNat → s.len.toNat < 6 + (bc.toNat + 7) / 8 → step s = .next
      { s with port := rest, err := true, cause := .invalidBounds, info := w, everFaulted := true })) ∧
  (∀ bc : Half, ¬ Params.default.bitcntMax.toNat < bc.toNat)

/-- R126, over all steps (and R120): only the acceptance of a word while READY raises a fault, and fault entry writes `ERR`,
`CAUSE` and `INFO`, the last with the word, and nothing else. -/
def Obligations.FaultEntryWritesNothingElse : Prop :=
  ∀ s t : State, step s = .next t → s.err = false → t.err = true →
    ∃ w rest c, s.port = .command w :: rest ∧ s.busy = false ∧ c ≠ Cause.none ∧
      t = { s with port := rest, err := true, cause := c, info := w, everFaulted := true }

/-- R128, over all steps: a recorded fault keeps `CAUSE` and `INFO` until it is cleared, only an accepted `CLRERR` or a
reset clears it, and the ghost flag is set at every fault entry and every drop and cleared by nothing. -/
def Obligations.FaultStaysUntilClrerrOrReset : Prop :=
  ∀ s t : State, step s = .next t →
    (s.err = true → t.err = true → t.cause = s.cause ∧ t.info = s.info) ∧
    (s.err = true → t.err = false →
      (∃ rest, s.port = .command 0x50000000 :: rest ∧ s.busy = false) ∨ (∃ rest, s.port = .reset :: rest)) ∧
    (s.err = false → t.err = true → t.everFaulted = true) ∧
    (s.lost = false → t.lost = true → t.everFaulted = true) ∧
    (s.everFaulted = true → t.everFaulted = true)

/-- R130: after a faulting `WHDR`, `CLRERR` gives back the state before it, and the identical `WHDR` faults again with the
same cause. -/
def Obligations.ClearedFaultRepeats : Prop :=
  ∀ (s t : State) (bc : Half), s.Inv → s.Ready → exec (.whdr bc) s = .next t → t.err = true →
    exec .clrerr t = .next { s with everFaulted := true } ∧
    exec (.whdr bc) { s with everFaulted := true } = .next t

/-! ## WHDR (spec/41_whdr.md) -/

/-- R97: a `WHDR` that passes its checks is accepted: `BUSY` is set, `ACC` takes `0xFFFF`, `OP` takes `Hdr2(bc)`, and no
byte of the frame and no other register changes. -/
def Obligations.WhdrAccepted : Prop :=
  ∀ (s : State) (bc : Half), s.Ready → s.op = .idle → s.ChecksPass bc →
    ∃ t, exec (.whdr bc) s = .next t ∧
      t.busy = true ∧ t.acc = 0xFFFF ∧ t.op = .hdr2 bc ∧ t.frame = s.frame ∧ t.len = s.len ∧ t.err = s.err ∧
      t.lost = s.lost ∧ t.cause = s.cause ∧ t.info = s.info ∧ t.params = s.params ∧ t.port = s.port

/-- The frame of `WHDR`'s acceptance, in every operating state (R19, R97, R126, R127, R129): no byte of the frame buffer
changes, `LEN` never does, `ACC` and `BUSY` only where the command is begun, and the fault registers only at a fault
entry. -/
def Obligations.WhdrAcceptanceFrame : Prop :=
  ∀ (bc : Half) (s t : State), exec (.whdr bc) s = .next t →
    (∀ a, t.frame.byteAt a = s.frame.byteAt a) ∧ t.len = s.len ∧ t.params = s.params ∧ t.port = s.port ∧
    t.lastRead = s.lastRead ∧ t.draws = s.draws ∧
    (¬ (s.Ready ∧ s.ChecksPass bc) → t.acc = s.acc ∧ t.busy = s.busy ∧ t.op = s.op ∧ t.running = s.running) ∧
    (¬ (s.Ready ∧ ¬ s.ChecksPass bc) → t.err = s.err ∧ t.cause = s.cause ∧ t.info = s.info) ∧
    (¬ s.Faulted → t.lost = s.lost)

/-- R98, R99: the header bytes at offsets 2 and 3 are folded whole. -/
def Obligations.HeaderBytesAreFolded : Prop :=
  (∀ (s : State) (bc : Half) (v : Byte), s.op = .hdr2 bc → s.frame.byteAt 2 = some v →
    blockStep s = .next { s with acc := updateCrc v s.acc 8, op := .hdr3 bc }) ∧
  (∀ (s : State) (bc : Half) (v : Byte), s.op = .hdr3 bc → s.frame.byteAt 3 = some v →
    blockStep s = .next { s with acc := updateCrc v s.acc 8, op := .body 6 bc })

/-- R101, and the fold of R100: with 8 bits or more left the byte at `ptr` is folded whole; with 1 to 7 left its top `rem`
bits are; with none left no byte is read. In the running `WHDR`, by R23, `ptr` is then `6 + w` and `rem` is `p`. -/
def Obligations.PayloadBytesAreFolded : Prop :=
  (∀ (s : State) (ptr rem : Half) (r : Running), s.Inv → s.op = .body ptr rem → s.running = some r → rem.toNat ≤ 7 →
    ptr.toNat = 6 + r.bc.toNat / 8 ∧ rem.toNat = r.bc.toNat % 8) ∧
  ∀ (s : State) (ptr rem : Half), s.op = .body ptr rem →
    (8 ≤ rem.toNat → ∀ v, s.frame.byteAt ptr.toNat = some v →
      blockStep s = .next { s with acc := updateCrc v s.acc 8, op := .body (ptr + 1) (rem - 8) }) ∧
    (∀ n : Fin 9, n.val = rem.toNat → rem.toNat ≤ 7 → rem ≠ 0 → ∀ v, s.frame.byteAt ptr.toNat = some v →
      blockStep s = .next { s with acc := updateCrc v s.acc n, op := .wr4 }) ∧
    (rem = 0 → blockStep s = .next { s with op := .wr4 })

/-- R102: the high byte of `ACC` goes to offset 4, then the low byte to offset 5, and the command is complete. -/
def Obligations.CrcBytesAreStored : Prop :=
  (∀ s : State, s.op = .wr4 → ∃ t, blockStep s = .next t ∧ t.frame.byteAt 4 = some (s.acc.extractLsb' 8 8) ∧
    (∀ a, a ≠ 4 → t.frame.byteAt a = s.frame.byteAt a) ∧ t = { s with frame := t.frame, op := .wr5 }) ∧
  (∀ s : State, s.op = .wr5 → ∃ t, blockStep s = .next t ∧ t.frame.byteAt 5 = some (s.acc.extractLsb' 0 8) ∧
    (∀ a, a ≠ 5 → t.frame.byteAt a = s.frame.byteAt a) ∧
    t = { s with frame := t.frame, op := .idle, busy := false, running := none })

/-- The frame of the block's own step (R98 to R102): only offset 4 in `Wr4` and offset 5 in `Wr5` are written, with the
bytes of `ACC`; `ACC` changes only where a byte is read; `LEN`, the fault registers, the parameter and the host's own
fields never change. -/
def Obligations.BlockStepFrame : Prop :=
  ∀ s t : State, blockStep s = .next t →
    (∀ a : Nat, (∀ off, s.op.writes = some off → a ≠ off.toNat) → t.frame.byteAt a = s.frame.byteAt a) ∧
    (∀ off, s.op.writes = some off →
      t.frame.byteAt off.toNat = some (if off = crcOffHi then crcHi s.acc else crcLo s.acc)) ∧
    (s.op.reads = none → t.acc = s.acc) ∧
    t.len = s.len ∧ t.err = s.err ∧ t.lost = s.lost ∧ t.cause = s.cause ∧ t.info = s.info ∧ t.params = s.params ∧
    t.port = s.port ∧ t.lastRead = s.lastRead ∧ t.draws = s.draws ∧ t.everFaulted = s.everFaulted

/-- R36, R39: a micro-step depends on no byte of the frame but the one `Op.reads` names. -/
def Obligations.BlockStepReadsOneByte : Prop :=
  ∀ (s t : State) (m : Memory),
    (∀ off, s.op.reads = some off → m.byteAt off.toNat = s.frame.byteAt off.toNat) → blockStep s = .next t →
    ∃ t', blockStep { s with frame := m } = .next t' ∧ t' = { t with frame := t'.frame }

/-- U14, the model's choice (assumption 3): a micro-step that reads an offset nothing has written stops. -/
def Obligations.UnwrittenByteStops : Prop :=
  ∀ (s : State) (off : Half), s.op.reads = some off →
    (s.frame.byteAt off.toNat = none ↔ blockStep s = .fault (.unwrittenByte off))

/-- R38: every offset the block reads or writes is below `LEN` and at most 8197. -/
def Obligations.BlockStaysInBounds : Prop :=
  ∀ (s : State) (off : Half), s.Inv → s.op.reads = some off ∨ s.op.writes = some off →
    off.toNat < s.len.toNat ∧ off.toNat ≤ 8197

/-- R103: the micro-steps agree with the one-step description of R91, in their outcome (a final state, or the stop at the
first unwritten byte) and in their number, `2 + w + 1 + 2`. -/
def Obligations.MicroStepsRefineWhdr : Prop :=
  ∀ (s : State) (bc : Half), s.Inv → s.Ready → s.ChecksPass bc →
    ∃ t, exec (.whdr bc) s = .next t ∧ blockRun (microSteps bc) t = whdrAtomic bc s

/-- R31, R95: a `WHDR` that passes its checks, over a written window and with no further move of the host's, completes:
the two bytes stored are the final accumulator, high byte at offset 4 and low byte at offset 5, `ACC` still holds it, and
nothing else changes. The completion in `2 + w + 1 + 2` steps rests on R103, an inference of the spec, and on the model's
micro-steps (assumption 10). -/
def Obligations.WhdrStoresTheCrc : Prop :=
  ∀ (s : State) (bc : Half), s.Inv → s.Ready → s.ChecksPass bc → s.port = [] → WindowWritten s.frame bc →
    ∃ t c u, exec (.whdr bc) s = .next t ∧ frameCrc s.frame bc = .ok c ∧
      Host.Core.run core (microSteps bc) t = .next u ∧
      u.acc = c ∧ u.frame.byteAt 4 = some (c.extractLsb' 8 8) ∧ u.frame.byteAt 5 = some (c.extractLsb' 0 8) ∧
      (∀ a, a ≠ 4 → a ≠ 5 → u.frame.byteAt a = s.frame.byteAt a) ∧
      u = { s with acc := c, frame := u.frame }

/-- R96 and R32: the CRC of a frame is the bit-by-bit fold of its `16 + bc` protected bits, from `0xFFFF`. -/
def Obligations.CrcFoldsTheProtectedBits : Prop :=
  ∀ (m : Memory) (bc : Half) (bits : List Bool), ProtectedBits m bc bits →
    frameCrc m bc = .ok (bits.foldl fold1 0xFFFF)

/-- R43: the CRC depends on no bit outside the protected bits; writing any byte without a protected bit changes
nothing. -/
def Obligations.CrcIgnoresUnprotectedBits : Prop :=
  (∀ (m m' : Memory) (bc : Half), (∀ i, i < 16 + bc.toNat → frameBit m i = frameBit m' i) →
    frameCrc m bc = frameCrc m' bc) ∧
  (∀ (m : Memory) (bc off : Half) (v : Byte), (∀ k, ¬ ProtectedBit bc off k) →
    frameCrc (m.setByte off.toNat v) bc = frameCrc m bc)

/-- R74 (g): changing exactly one protected bit of a frame always changes its CRC. -/
def Obligations.OneFlippedBitChangesTheCrc : Prop :=
  ∀ (m : Memory) (bc off : Half) (k : Nat) (v : Byte) (c : Half), ProtectedBit bc off k →
    m.byteAt off.toNat = some v → frameCrc m bc = .ok c →
    ∃ c', frameCrc (m.setByte off.toNat (v ^^^ (1#8 <<< k))) bc = .ok c' ∧ c' ≠ c

/-- R94 (i): a `WHDR` repeated on the frame it has written changes nothing. -/
def Obligations.RepeatedWhdrStoresTheSame : Prop :=
  ∀ (s t : State) (bc : Half), s.Inv → whdrAtomic bc s = .next t → whdrAtomic bc t = .next t

/-- R93: after a `WHDR` that completed, folding the protected window by hand with `INIT`, `UPDB` and `UPD` leaves
`ACC = F[4] ++ F[5]`, on any READY block. -/
def Obligations.HandFoldReproducesTheCrc : Prop :=
  ∀ (s t u : State) (bc : Half) (h2 h3 last hi lo : Byte) (whole : List Byte),
    whdrAtomic bc s = .next t → u.Ready →
    t.frame.byteAt 2 = some h2 → t.frame.byteAt 3 = some h3 →
    whole.length = bc.toNat / 8 → (∀ i, i < bc.toNat / 8 → t.frame.byteAt (6 + i) = whole[i]?) →
    (bc.toNat % 8 ≠ 0 → t.frame.byteAt (6 + bc.toNat / 8) = some last) →
    t.frame.byteAt 4 = some hi → t.frame.byteAt 5 = some lo →
    execAll (handFold bc h2 h3 whole last) u = .next { u with acc := (hi ++ lo).setWidth 16 }

/-- R12: what a `WHDR` does to `ACC` and to the frame depends on the frame, `LEN` and the parameter alone, not on the
accumulator or any other state before it. -/
def Obligations.WhdrForgetsTheOldAccumulator : Prop :=
  ∀ (s s' t t' u : State) (bc : Half) (n : Nat),
    s.Ready → s'.Ready → s.frame = s'.frame → s.len = s'.len → s.params = s'.params → s.ChecksPass bc →
    exec (.whdr bc) s = .next t → exec (.whdr bc) s' = .next t' → blockRun n t = .next u →
    ∃ u', blockRun n t' = .next u' ∧ u'.acc = u.acc ∧ u'.frame = u.frame ∧ u'.op = u.op ∧ u'.busy = u.busy

/-- R151: a `WHDR` in flight completes, from every state the invariant allows, if its window is written. -/
def Obligations.WhdrInFlightCompletes : Prop :=
  ∀ (s : State) (r : Running), s.Inv → s.running = some r → WindowWritten s.frame r.bc →
    ∃ n t, n ≤ microSteps r.bc ∧ blockRun n s = .next t ∧ t.busy = false ∧ t.op = .idle

/-! ## Reset and the host (spec/70_reset_and_hazards.md) -/

/-- R24: the values after reset, at power-up and at the reset input; the frame buffer is not changed. -/
def Obligations.ResetValues : Prop :=
  (State.reset.acc = 0xFFFF ∧ State.reset.len = 0 ∧ State.reset.busy = false ∧ State.reset.err = false ∧
    State.reset.lost = false ∧ State.reset.cause.code = 0 ∧ State.reset.info = 0 ∧ State.reset.op = .idle) ∧
  (∀ (s : State) (rest : List HostMove), s.port = .reset :: rest → ∃ t, step s = .next t ∧
    t.acc = 0xFFFF ∧ t.len = 0 ∧ t.busy = false ∧ t.err = false ∧ t.lost = false ∧ t.cause.code = 0 ∧ t.info = 0 ∧
    t.op = .idle ∧ t.frame = s.frame)

/-- R141: a reset that cuts a `WHDR` after any number of its micro-steps leaves the registers at their reset values, no
fault, offsets 4 and 5 in one of three states (both old, offset 4 new, both new), and every other byte as it was. -/
def Obligations.ResetAbandonsWhdr : Prop :=
  ∀ (s t u : State) (bc : Half) (n : Nat) (rest : List HostMove),
    s.Inv → s.Ready → s.ChecksPass bc → exec (.whdr bc) s = .next t → blockRun n t = .next u →
    u.port = .reset :: rest →
    ∃ v, step u = .next v ∧ v.acc = 0xFFFF ∧ v.len = 0 ∧ v.busy = false ∧ v.err = false ∧ v.lost = false ∧
      v.cause = .none ∧ v.info = 0 ∧ v.op = .idle ∧
      (∀ a, a ≠ 4 → a ≠ 5 → v.frame.byteAt a = s.frame.byteAt a) ∧
      (v.frame.byteAt 4 = s.frame.byteAt 4 ∧ v.frame.byteAt 5 = s.frame.byteAt 5 ∨
        ∃ c, frameCrc s.frame bc = .ok c ∧ v.frame.byteAt 4 = some (crcHi c) ∧
          (v.frame.byteAt 5 = s.frame.byteAt 5 ∨ v.frame.byteAt 5 = some (crcLo c)))

/-- R17: what the register read port shows, and that a read disturbs nothing of the block. While `BUSY = 1` index 0 shows
a value of which only the 16 zeros at the top are known (assumption 5). -/
def Obligations.RegisterPortShowsTheRegisters : Prop :=
  (∀ s : State,
    (s.busy = false → s.regPort 0 = s.acc.setWidth 32) ∧ (s.regPort 0).toNat < 65536 ∧
    s.regPort 1 = s.len.setWidth 32 ∧
    (s.regPort 2).getLsbD 0 = s.busy ∧ (s.regPort 2).getLsbD 1 = s.err ∧ (s.regPort 2).getLsbD 2 = s.lost ∧
    (∀ i, 3 ≤ i → (s.regPort 2).getLsbD i = false) ∧
    s.regPort 3 = s.cause.code.setWidth 32 ∧ s.regPort 4 = s.info ∧
    s.regPort 5 = 0 ∧ s.regPort 6 = 0 ∧ s.regPort 7 = 0) ∧
  (∀ (s : State) (idx : BitVec 3) (rest : List HostMove), s.port = .readReg idx :: rest →
    ∃ d, step s = .next
      { s with port := rest, lastRead := some (.reg idx (s.regPort idx)), draws := d } ∧
      (d = s.draws ∨ s.busy = true ∧ idx = 0 ∧ d = s.draws + 1))

/-- R146, R25: the host writes a byte of the frame while `OP = Idle`; while a `WHDR` is in flight the write stops the run
(U5, assumption 4). -/
def Obligations.HostWritesOnlyWhileIdle : Prop :=
  ∀ (s : State) (off : Half) (v : Byte) (rest : List HostMove), s.port = .writeByte off v :: rest →
    (s.op = .idle → ∃ t, step s = .next t ∧ t.frame.byteAt off.toNat = some v ∧
      (∀ a, a ≠ off.toNat → t.frame.byteAt a = s.frame.byteAt a) ∧
      t = { s with port := rest, frame := t.frame }) ∧
    (s.op ≠ .idle → step s = .fault (.hostWriteInFlight off))

/-- R147: a host read of a frame byte shows the byte in memory, but at offset 4 or 5 while a `WHDR` is in flight it shows
the old or the new byte; it disturbs nothing of the block (assumptions 6 and 7). -/
def Obligations.HostReadsFrameBytes : Prop :=
  ∀ (s t : State) (off : Half) (rest : List HostMove), s.port = .readByte off :: rest → step s = .next t →
    ∃ v d, t = { s with port := rest, lastRead := some (.byte off v), draws := d } ∧
      (s.busy = false ∨ off ≠ 4 ∧ off ≠ 5 → s.frame.byteAt off.toNat = some v) ∧
      (s.busy = true → off = 4 ∨ off = 5 → ∀ r, s.running = some r →
        (off = 4 ∧ r.old4 = some v ∨ off = 5 ∧ r.old5 = some v) ∨
        ∃ c, frameCrc s.frame r.bc = .ok c ∧ (off = 4 ∧ v = crcHi c ∨ off = 5 ∧ v = crcLo c))

/-! ## The whole machine -/

/-- R23: every step keeps the invariant. -/
def Obligations.StepKeepsTheInvariant : Prop := ∀ s t : State, s.Inv → step s = .next t → t.Inv

/-- R23: the invariant holds after reset, whatever moves the host has in store. -/
def Obligations.ResetMeetsTheInvariant : Prop := ∀ p : List HostMove, ({ State.reset with port := p } : State).Inv

/-- The canonical form of the frame buffer is kept by every step, with no other premise (assumption 3). -/
def Obligations.StepKeepsTheFrameCanonical : Prop :=
  ∀ s t : State, s.frame.wf = true → step s = .next t → t.frame.wf = true

/-- R22: `BUSY` and `ERR` are never both 1 after a step from a state of the invariant, and a command is accepted exactly
while `BUSY = 0`: it leaves the command port then, and only then. -/
def Obligations.OperatingStates : Prop :=
  ∀ (s t : State) (w : Word) (rest : List HostMove), s.Inv → s.port = .command w :: rest → step s = .next t →
    ¬ (t.busy = true ∧ t.err = true) ∧ (s.busy = false ↔ t.port = rest)

/-- R148: once the run has gone wrong, no step writes the frame but the host's own write, and only a reset changes `ACC` or
`LEN`, until `CLRERR`. -/
def Obligations.FaultedBlockWritesNothing : Prop :=
  ∀ s t : State, s.Inv → s.GoneWrong → step s = .next t →
    ((∀ off v rest, s.port ≠ .writeByte off v :: rest) → t.frame = s.frame) ∧
    ((∀ rest, s.port ≠ .reset :: rest) → t.acc = s.acc ∧ t.len = s.len)

/-- R152, R153: at the end of a run no command is pending and no access outstanding: the state is stable. -/
def Obligations.EndOfRunIsStable : Prop :=
  ∀ (s : State) (n : Nat), s.Inv → s.RunOver → Host.Core.run core n s = .next s

/-- R13, over all steps: `LEN` changes only by an accepted `SETLEN`, to its operand, and by reset, to 0. -/
def Obligations.LengthWrittenOnlyBySetlenAndReset : Prop :=
  ∀ s t : State, step s = .next t → t.len ≠ s.len →
    (∃ w len rest, s.port = .command w :: rest ∧ decode w = .ok (.setlen len) ∧ s.Ready ∧ t.len = len) ∨
    (∃ rest, s.port = .reset :: rest ∧ t.len = 0)

/-- R11, over all steps: `ACC` changes only by an accepted `LDACC`, `UPD` or `WHDR`, by a micro-step that reads a byte,
and by reset. -/
def Obligations.AccumulatorWrittenOnlyByItsCommands : Prop :=
  ∀ s t : State, step s = .next t → t.acc ≠ s.acc →
    (∃ w i rest, s.port = .command w :: rest ∧ decode w = .ok i ∧ s.Ready ∧
      ((∃ v, i = .ldacc v) ∨ (∃ n b, i = .upd n b) ∨ (∃ b, i = .upd8 b) ∨ (∃ bc, i = .whdr bc))) ∨
    (∃ off, s.op.reads = some off) ∨
    (∃ rest, s.port = .reset :: rest)

/-- R37, over all steps: a byte of the frame changes only by a write of the host's at that offset, or by the micro-steps
that store the CRC, at offset 4 or 5. -/
def Obligations.FrameWrittenOnlyByHostAndCrcStores : Prop :=
  ∀ (s t : State) (a : Nat), step s = .next t → t.frame.byteAt a ≠ s.frame.byteAt a →
    (∃ off v rest, s.port = .writeByte off v :: rest ∧ a = off.toNat ∧ s.op = .idle) ∨
    (s.op = .wr4 ∧ a = 4) ∨ (s.op = .wr5 ∧ a = 5)

/-- R6: no step changes the parameter `BITCNT_MAX` (assumption 2). -/
def Obligations.ParameterIsFixed : Prop := ∀ s t : State, step s = .next t → t.params = s.params
end

