-- ==== Sys2Proof/Laws/Decode.lean ====
section
/-! SUPPORT. The fields of an assembled word, for the decoder's lemmas. -/

namespace Sys2Proof

/-- Bit by bit, a word of format `C` (R50). -/
theorem getLsbD_assemble (op n : BitVec 4) (z : BitVec 8) (imm : Half) (i : Nat) :
    (assemble op n z imm).getLsbD i =
      if i < 16 then imm.getLsbD i else if i < 24 then z.getLsbD (i - 16)
      else if i < 28 then n.getLsbD (i - 24) else op.getLsbD (i - 28) := by
  simp only [assemble, BitVec.getLsbD_setWidth, BitVec.getLsbD_append]
  have h : ¬ i < 32 → op.getLsbD (i - 28) = false := fun h => BitVec.getLsbD_of_ge _ _ (by omega)
  by_cases hi : i < 32 <;> grind

theorem opField_assemble (op n : BitVec 4) (z : BitVec 8) (imm : Half) :
    opField (assemble op n z imm) = op := by
  apply BitVec.eq_of_getLsbD_eq
  intro i hi
  simp only [opField, getLsbD_assemble, BitVec.getLsbD_extractLsb']
  grind

theorem nField_assemble (op n : BitVec 4) (z : BitVec 8) (imm : Half) :
    nField (assemble op n z imm) = n := by
  apply BitVec.eq_of_getLsbD_eq
  intro i hi
  simp only [nField, getLsbD_assemble, BitVec.getLsbD_extractLsb']
  grind

theorem zField_assemble (op n : BitVec 4) (z : BitVec 8) (imm : Half) :
    zField (assemble op n z imm) = z := by
  apply BitVec.eq_of_getLsbD_eq
  intro i hi
  simp only [zField, getLsbD_assemble, BitVec.getLsbD_extractLsb']
  grind

theorem immField_assemble (op n : BitVec 4) (z : BitVec 8) (imm : Half) :
    immField (assemble op n z imm) = imm := by
  apply BitVec.eq_of_getLsbD_eq
  intro i hi
  simp only [immField, getLsbD_assemble, BitVec.getLsbD_extractLsb']
  grind

/-- `imm[15:8]` of a word whose `imm` is a data byte (R52). -/
theorem immHi_assemble (op n : BitVec 4) (z : BitVec 8) (b : Byte) :
    immHi (assemble op n z (b.setWidth 16)) = 0 := by
  apply BitVec.eq_of_getLsbD_eq
  intro i hi
  simp only [immHi, getLsbD_assemble, BitVec.getLsbD_extractLsb']
  grind

/-- `imm[7:0]` of a word whose `imm` is a data byte (R52). -/
theorem immLo_assemble (op n : BitVec 4) (z : BitVec 8) (b : Byte) :
    immLo (assemble op n z (b.setWidth 16)) = b := by
  apply BitVec.eq_of_getLsbD_eq
  intro i hi
  simp only [immLo, getLsbD_assemble, BitVec.getLsbD_extractLsb']
  grind

/-- A word is assembled from its four fields (R50). -/
theorem assemble_fields (w : Word) : assemble (opField w) (nField w) (zField w) (immField w) = w := by
  apply BitVec.eq_of_getLsbD_eq
  intro i hi
  simp only [getLsbD_assemble, opField, nField, zField, immField, BitVec.getLsbD_extractLsb']
  grind

/-- `imm` from its two bytes (R52). -/
theorem immField_eq (w : Word) : immField w = (immHi w ++ immLo w).setWidth 16 := by
  apply BitVec.eq_of_getLsbD_eq
  intro i hi
  simp only [immField, immHi, immLo, BitVec.getLsbD_extractLsb', BitVec.getLsbD_setWidth, BitVec.getLsbD_append]
  grind

end Sys2Proof
end

