-- ==== Sys2Proof/Laws/Memory.lean ====
section
/-! SUPPORT. The frame buffer: a read after a write, and that a write keeps the canonical form. -/

namespace Sys2Proof.Machine

@[simp] theorem Memory.byteAt_nil (a : Nat) : Memory.byteAt [] a = none := rfl

/-- A read of the byte just written gives the value written (R36). -/
@[simp] theorem Memory.byteAt_setByte_same (m : Memory) (a : Nat) (v : Byte) : (m.setByte a v).byteAt a = some v := by
  induction m with
  | nil => simp [Memory.setByte, Memory.byteAt]
  | cons c m ih =>
    simp only [Memory.setByte]
    split
    · simp [Memory.byteAt]
    · split
      · simp [Memory.byteAt]
      · next h => simp [Memory.byteAt, Ne.symm h, ih]

/-- A write leaves every other offset alone (R36). -/
theorem Memory.byteAt_setByte_other (m : Memory) {a b : Nat} (v : Byte) (h : b ≠ a) :
    (m.setByte a v).byteAt b = m.byteAt b := by
  induction m with
  | nil => simp [Memory.setByte, Memory.byteAt, h.symm]
  | cons c m ih =>
    simp only [Memory.setByte]
    split
    · simp [Memory.byteAt, h.symm]
    · split
      · next hc => subst hc; simp [Memory.byteAt, h.symm]
      · simp [Memory.byteAt, ih]

theorem Memory.risingFrom_setByte (m : Memory) {lo a : Nat} (v : Byte) (hm : m.risingFrom lo = true) (hlo : lo ≤ a)
    (ha : a < 65536) : (m.setByte a v).risingFrom lo = true := by
  induction m generalizing lo with
  | nil => simp [Memory.setByte, Memory.risingFrom, hlo, ha]
  | cons c m ih =>
    simp only [Memory.risingFrom, Bool.and_eq_true, decide_eq_true_eq] at hm
    obtain ⟨⟨hc, hc'⟩, hm⟩ := hm
    simp only [Memory.setByte]
    split
    · next h => simp [Memory.risingFrom, hlo, ha, hc', hm, Nat.succ_le_of_lt h]
    · split
      · next h => subst h; simp [Memory.risingFrom, hlo, ha, hm]
      · simp [Memory.risingFrom, hc, hc', ih hm (by omega)]

/-- A write at a 16-bit offset keeps the canonical form. -/
theorem Memory.wf_setByte {m : Memory} (off : Half) (v : Byte) (hm : m.wf = true) :
    (m.setByte off.toNat v).wf = true :=
  Memory.risingFrom_setByte m v hm (Nat.zero_le _) off.isLt

/-- The frame buffer at reset is in canonical form. -/
theorem State.reset_frame_wf : State.reset.frame.wf = true := rfl

/-- The one memory operation of the state keeps the canonical form. -/
theorem State.storeByte_wf {s : State} (off : Half) (v : Byte) (hs : s.frame.wf = true) :
    (s.storeByte off v).frame.wf = true :=
  Memory.wf_setByte off v hs

/-- A read succeeds exactly where a byte has been written (U14). -/
theorem memRead_eq_ok {m : Memory} {off : Half} {v : Byte} : memRead m off = .ok v ↔ m.byteAt off.toNat = some v := by
  unfold memRead
  cases m.byteAt off.toNat <;> simp

end Sys2Proof.Machine
end

