-- ==== Sys2Proof/Laws/State.lean ====
section
/-! SUPPORT. Every field of `State` after every named update, by `rfl`: no later proof unfolds a record update. -/

namespace Sys2Proof.Machine

variable (s : State)

/-! `ACC` is written: `State.setAcc`. -/

@[simp] theorem State.setAcc_acc (v : Half) : (s.setAcc v).acc = v := rfl
@[simp] theorem State.setAcc_len (v : Half) : (s.setAcc v).len = s.len := rfl
@[simp] theorem State.setAcc_busy (v : Half) : (s.setAcc v).busy = s.busy := rfl
@[simp] theorem State.setAcc_err (v : Half) : (s.setAcc v).err = s.err := rfl
@[simp] theorem State.setAcc_lost (v : Half) : (s.setAcc v).lost = s.lost := rfl
@[simp] theorem State.setAcc_cause (v : Half) : (s.setAcc v).cause = s.cause := rfl
@[simp] theorem State.setAcc_info (v : Half) : (s.setAcc v).info = s.info := rfl
@[simp] theorem State.setAcc_op (v : Half) : (s.setAcc v).op = s.op := rfl
@[simp] theorem State.setAcc_frame (v : Half) : (s.setAcc v).frame = s.frame := rfl
@[simp] theorem State.setAcc_params (v : Half) : (s.setAcc v).params = s.params := rfl
@[simp] theorem State.setAcc_port (v : Half) : (s.setAcc v).port = s.port := rfl
@[simp] theorem State.setAcc_lastRead (v : Half) : (s.setAcc v).lastRead = s.lastRead := rfl
@[simp] theorem State.setAcc_draws (v : Half) : (s.setAcc v).draws = s.draws := rfl
@[simp] theorem State.setAcc_running (v : Half) : (s.setAcc v).running = s.running := rfl
@[simp] theorem State.setAcc_everFaulted (v : Half) : (s.setAcc v).everFaulted = s.everFaulted := rfl

/-! `LEN` is written: `State.setLen`. -/

@[simp] theorem State.setLen_acc (v : Half) : (s.setLen v).acc = s.acc := rfl
@[simp] theorem State.setLen_len (v : Half) : (s.setLen v).len = v := rfl
@[simp] theorem State.setLen_busy (v : Half) : (s.setLen v).busy = s.busy := rfl
@[simp] theorem State.setLen_err (v : Half) : (s.setLen v).err = s.err := rfl
@[simp] theorem State.setLen_lost (v : Half) : (s.setLen v).lost = s.lost := rfl
@[simp] theorem State.setLen_cause (v : Half) : (s.setLen v).cause = s.cause := rfl
@[simp] theorem State.setLen_info (v : Half) : (s.setLen v).info = s.info := rfl
@[simp] theorem State.setLen_op (v : Half) : (s.setLen v).op = s.op := rfl
@[simp] theorem State.setLen_frame (v : Half) : (s.setLen v).frame = s.frame := rfl
@[simp] theorem State.setLen_params (v : Half) : (s.setLen v).params = s.params := rfl
@[simp] theorem State.setLen_port (v : Half) : (s.setLen v).port = s.port := rfl
@[simp] theorem State.setLen_lastRead (v : Half) : (s.setLen v).lastRead = s.lastRead := rfl
@[simp] theorem State.setLen_draws (v : Half) : (s.setLen v).draws = s.draws := rfl
@[simp] theorem State.setLen_running (v : Half) : (s.setLen v).running = s.running := rfl
@[simp] theorem State.setLen_everFaulted (v : Half) : (s.setLen v).everFaulted = s.everFaulted := rfl

/-! The in-flight record moves on: `State.setOp`. -/

@[simp] theorem State.setOp_acc (o : Op) : (s.setOp o).acc = s.acc := rfl
@[simp] theorem State.setOp_len (o : Op) : (s.setOp o).len = s.len := rfl
@[simp] theorem State.setOp_busy (o : Op) : (s.setOp o).busy = s.busy := rfl
@[simp] theorem State.setOp_err (o : Op) : (s.setOp o).err = s.err := rfl
@[simp] theorem State.setOp_lost (o : Op) : (s.setOp o).lost = s.lost := rfl
@[simp] theorem State.setOp_cause (o : Op) : (s.setOp o).cause = s.cause := rfl
@[simp] theorem State.setOp_info (o : Op) : (s.setOp o).info = s.info := rfl
@[simp] theorem State.setOp_op (o : Op) : (s.setOp o).op = o := rfl
@[simp] theorem State.setOp_frame (o : Op) : (s.setOp o).frame = s.frame := rfl
@[simp] theorem State.setOp_params (o : Op) : (s.setOp o).params = s.params := rfl
@[simp] theorem State.setOp_port (o : Op) : (s.setOp o).port = s.port := rfl
@[simp] theorem State.setOp_lastRead (o : Op) : (s.setOp o).lastRead = s.lastRead := rfl
@[simp] theorem State.setOp_draws (o : Op) : (s.setOp o).draws = s.draws := rfl
@[simp] theorem State.setOp_running (o : Op) : (s.setOp o).running = s.running := rfl
@[simp] theorem State.setOp_everFaulted (o : Op) : (s.setOp o).everFaulted = s.everFaulted := rfl

/-! The host's coming moves change: `State.setPort`. -/

@[simp] theorem State.setPort_acc (p : List HostMove) : (s.setPort p).acc = s.acc := rfl
@[simp] theorem State.setPort_len (p : List HostMove) : (s.setPort p).len = s.len := rfl
@[simp] theorem State.setPort_busy (p : List HostMove) : (s.setPort p).busy = s.busy := rfl
@[simp] theorem State.setPort_err (p : List HostMove) : (s.setPort p).err = s.err := rfl
@[simp] theorem State.setPort_lost (p : List HostMove) : (s.setPort p).lost = s.lost := rfl
@[simp] theorem State.setPort_cause (p : List HostMove) : (s.setPort p).cause = s.cause := rfl
@[simp] theorem State.setPort_info (p : List HostMove) : (s.setPort p).info = s.info := rfl
@[simp] theorem State.setPort_op (p : List HostMove) : (s.setPort p).op = s.op := rfl
@[simp] theorem State.setPort_frame (p : List HostMove) : (s.setPort p).frame = s.frame := rfl
@[simp] theorem State.setPort_params (p : List HostMove) : (s.setPort p).params = s.params := rfl
@[simp] theorem State.setPort_port (p : List HostMove) : (s.setPort p).port = p := rfl
@[simp] theorem State.setPort_lastRead (p : List HostMove) : (s.setPort p).lastRead = s.lastRead := rfl
@[simp] theorem State.setPort_draws (p : List HostMove) : (s.setPort p).draws = s.draws := rfl
@[simp] theorem State.setPort_running (p : List HostMove) : (s.setPort p).running = s.running := rfl
@[simp] theorem State.setPort_everFaulted (p : List HostMove) : (s.setPort p).everFaulted = s.everFaulted := rfl

/-! A byte of the frame is written: `State.storeByte`. -/

@[simp] theorem State.storeByte_acc (off : Half) (v : Byte) : (s.storeByte off v).acc = s.acc := rfl
@[simp] theorem State.storeByte_len (off : Half) (v : Byte) : (s.storeByte off v).len = s.len := rfl
@[simp] theorem State.storeByte_busy (off : Half) (v : Byte) : (s.storeByte off v).busy = s.busy := rfl
@[simp] theorem State.storeByte_err (off : Half) (v : Byte) : (s.storeByte off v).err = s.err := rfl
@[simp] theorem State.storeByte_lost (off : Half) (v : Byte) : (s.storeByte off v).lost = s.lost := rfl
@[simp] theorem State.storeByte_cause (off : Half) (v : Byte) : (s.storeByte off v).cause = s.cause := rfl
@[simp] theorem State.storeByte_info (off : Half) (v : Byte) : (s.storeByte off v).info = s.info := rfl
@[simp] theorem State.storeByte_op (off : Half) (v : Byte) : (s.storeByte off v).op = s.op := rfl
@[simp] theorem State.storeByte_frame (off : Half) (v : Byte) : (s.storeByte off v).frame = s.frame.setByte off.toNat v := rfl
@[simp] theorem State.storeByte_params (off : Half) (v : Byte) : (s.storeByte off v).params = s.params := rfl
@[simp] theorem State.storeByte_port (off : Half) (v : Byte) : (s.storeByte off v).port = s.port := rfl
@[simp] theorem State.storeByte_lastRead (off : Half) (v : Byte) : (s.storeByte off v).lastRead = s.lastRead := rfl
@[simp] theorem State.storeByte_draws (off : Half) (v : Byte) : (s.storeByte off v).draws = s.draws := rfl
@[simp] theorem State.storeByte_running (off : Half) (v : Byte) : (s.storeByte off v).running = s.running := rfl
@[simp] theorem State.storeByte_everFaulted (off : Half) (v : Byte) : (s.storeByte off v).everFaulted = s.everFaulted := rfl

/-! A `WHDR` is accepted (R97): `State.beginWhdr`. -/

@[simp] theorem State.beginWhdr_acc (bc : Half) : (s.beginWhdr bc).acc = 0xFFFF := rfl
@[simp] theorem State.beginWhdr_len (bc : Half) : (s.beginWhdr bc).len = s.len := rfl
@[simp] theorem State.beginWhdr_busy (bc : Half) : (s.beginWhdr bc).busy = true := rfl
@[simp] theorem State.beginWhdr_err (bc : Half) : (s.beginWhdr bc).err = s.err := rfl
@[simp] theorem State.beginWhdr_lost (bc : Half) : (s.beginWhdr bc).lost = s.lost := rfl
@[simp] theorem State.beginWhdr_cause (bc : Half) : (s.beginWhdr bc).cause = s.cause := rfl
@[simp] theorem State.beginWhdr_info (bc : Half) : (s.beginWhdr bc).info = s.info := rfl
@[simp] theorem State.beginWhdr_op (bc : Half) : (s.beginWhdr bc).op = .hdr2 bc := rfl
@[simp] theorem State.beginWhdr_frame (bc : Half) : (s.beginWhdr bc).frame = s.frame := rfl
@[simp] theorem State.beginWhdr_params (bc : Half) : (s.beginWhdr bc).params = s.params := rfl
@[simp] theorem State.beginWhdr_port (bc : Half) : (s.beginWhdr bc).port = s.port := rfl
@[simp] theorem State.beginWhdr_lastRead (bc : Half) : (s.beginWhdr bc).lastRead = s.lastRead := rfl
@[simp] theorem State.beginWhdr_draws (bc : Half) : (s.beginWhdr bc).draws = s.draws := rfl
@[simp] theorem State.beginWhdr_running (bc : Half) : (s.beginWhdr bc).running = some { bc := bc, old4 := s.frame.byteAt 4, old5 := s.frame.byteAt 5 } := rfl
@[simp] theorem State.beginWhdr_everFaulted (bc : Half) : (s.beginWhdr bc).everFaulted = s.everFaulted := rfl

/-! The `WHDR` in flight is complete (R102): `State.finishWhdr`. -/

@[simp] theorem State.finishWhdr_acc : (s.finishWhdr).acc = s.acc := rfl
@[simp] theorem State.finishWhdr_len : (s.finishWhdr).len = s.len := rfl
@[simp] theorem State.finishWhdr_busy : (s.finishWhdr).busy = false := rfl
@[simp] theorem State.finishWhdr_err : (s.finishWhdr).err = s.err := rfl
@[simp] theorem State.finishWhdr_lost : (s.finishWhdr).lost = s.lost := rfl
@[simp] theorem State.finishWhdr_cause : (s.finishWhdr).cause = s.cause := rfl
@[simp] theorem State.finishWhdr_info : (s.finishWhdr).info = s.info := rfl
@[simp] theorem State.finishWhdr_op : (s.finishWhdr).op = .idle := rfl
@[simp] theorem State.finishWhdr_frame : (s.finishWhdr).frame = s.frame := rfl
@[simp] theorem State.finishWhdr_params : (s.finishWhdr).params = s.params := rfl
@[simp] theorem State.finishWhdr_port : (s.finishWhdr).port = s.port := rfl
@[simp] theorem State.finishWhdr_lastRead : (s.finishWhdr).lastRead = s.lastRead := rfl
@[simp] theorem State.finishWhdr_draws : (s.finishWhdr).draws = s.draws := rfl
@[simp] theorem State.finishWhdr_running : (s.finishWhdr).running = none := rfl
@[simp] theorem State.finishWhdr_everFaulted : (s.finishWhdr).everFaulted = s.everFaulted := rfl

/-! Fault entry (R126): `State.raise`. -/

@[simp] theorem State.raise_acc (c : Cause) (w : Word) : (s.raise c w).acc = s.acc := rfl
@[simp] theorem State.raise_len (c : Cause) (w : Word) : (s.raise c w).len = s.len := rfl
@[simp] theorem State.raise_busy (c : Cause) (w : Word) : (s.raise c w).busy = s.busy := rfl
@[simp] theorem State.raise_err (c : Cause) (w : Word) : (s.raise c w).err = true := rfl
@[simp] theorem State.raise_lost (c : Cause) (w : Word) : (s.raise c w).lost = s.lost := rfl
@[simp] theorem State.raise_cause (c : Cause) (w : Word) : (s.raise c w).cause = c := rfl
@[simp] theorem State.raise_info (c : Cause) (w : Word) : (s.raise c w).info = w := rfl
@[simp] theorem State.raise_op (c : Cause) (w : Word) : (s.raise c w).op = s.op := rfl
@[simp] theorem State.raise_frame (c : Cause) (w : Word) : (s.raise c w).frame = s.frame := rfl
@[simp] theorem State.raise_params (c : Cause) (w : Word) : (s.raise c w).params = s.params := rfl
@[simp] theorem State.raise_port (c : Cause) (w : Word) : (s.raise c w).port = s.port := rfl
@[simp] theorem State.raise_lastRead (c : Cause) (w : Word) : (s.raise c w).lastRead = s.lastRead := rfl
@[simp] theorem State.raise_draws (c : Cause) (w : Word) : (s.raise c w).draws = s.draws := rfl
@[simp] theorem State.raise_running (c : Cause) (w : Word) : (s.raise c w).running = s.running := rfl
@[simp] theorem State.raise_everFaulted (c : Cause) (w : Word) : (s.raise c w).everFaulted = true := rfl

/-! A command is dropped (R129): `State.dropCommand`. -/

@[simp] theorem State.dropCommand_acc : (s.dropCommand).acc = s.acc := rfl
@[simp] theorem State.dropCommand_len : (s.dropCommand).len = s.len := rfl
@[simp] theorem State.dropCommand_busy : (s.dropCommand).busy = s.busy := rfl
@[simp] theorem State.dropCommand_err : (s.dropCommand).err = s.err := rfl
@[simp] theorem State.dropCommand_lost : (s.dropCommand).lost = true := rfl
@[simp] theorem State.dropCommand_cause : (s.dropCommand).cause = s.cause := rfl
@[simp] theorem State.dropCommand_info : (s.dropCommand).info = s.info := rfl
@[simp] theorem State.dropCommand_op : (s.dropCommand).op = s.op := rfl
@[simp] theorem State.dropCommand_frame : (s.dropCommand).frame = s.frame := rfl
@[simp] theorem State.dropCommand_params : (s.dropCommand).params = s.params := rfl
@[simp] theorem State.dropCommand_port : (s.dropCommand).port = s.port := rfl
@[simp] theorem State.dropCommand_lastRead : (s.dropCommand).lastRead = s.lastRead := rfl
@[simp] theorem State.dropCommand_draws : (s.dropCommand).draws = s.draws := rfl
@[simp] theorem State.dropCommand_running : (s.dropCommand).running = s.running := rfl
@[simp] theorem State.dropCommand_everFaulted : (s.dropCommand).everFaulted = true := rfl

/-! The return from FAULTED (R112): `State.clearError`. -/

@[simp] theorem State.clearError_acc : (s.clearError).acc = s.acc := rfl
@[simp] theorem State.clearError_len : (s.clearError).len = s.len := rfl
@[simp] theorem State.clearError_busy : (s.clearError).busy = s.busy := rfl
@[simp] theorem State.clearError_err : (s.clearError).err = false := rfl
@[simp] theorem State.clearError_lost : (s.clearError).lost = false := rfl
@[simp] theorem State.clearError_cause : (s.clearError).cause = .none := rfl
@[simp] theorem State.clearError_info : (s.clearError).info = 0 := rfl
@[simp] theorem State.clearError_op : (s.clearError).op = s.op := rfl
@[simp] theorem State.clearError_frame : (s.clearError).frame = s.frame := rfl
@[simp] theorem State.clearError_params : (s.clearError).params = s.params := rfl
@[simp] theorem State.clearError_port : (s.clearError).port = s.port := rfl
@[simp] theorem State.clearError_lastRead : (s.clearError).lastRead = s.lastRead := rfl
@[simp] theorem State.clearError_draws : (s.clearError).draws = s.draws := rfl
@[simp] theorem State.clearError_running : (s.clearError).running = s.running := rfl
@[simp] theorem State.clearError_everFaulted : (s.clearError).everFaulted = s.everFaulted := rfl

/-! The host gets a value: `State.sawRead`. -/

@[simp] theorem State.sawRead_acc (r : HostRead) : (s.sawRead r).acc = s.acc := rfl
@[simp] theorem State.sawRead_len (r : HostRead) : (s.sawRead r).len = s.len := rfl
@[simp] theorem State.sawRead_busy (r : HostRead) : (s.sawRead r).busy = s.busy := rfl
@[simp] theorem State.sawRead_err (r : HostRead) : (s.sawRead r).err = s.err := rfl
@[simp] theorem State.sawRead_lost (r : HostRead) : (s.sawRead r).lost = s.lost := rfl
@[simp] theorem State.sawRead_cause (r : HostRead) : (s.sawRead r).cause = s.cause := rfl
@[simp] theorem State.sawRead_info (r : HostRead) : (s.sawRead r).info = s.info := rfl
@[simp] theorem State.sawRead_op (r : HostRead) : (s.sawRead r).op = s.op := rfl
@[simp] theorem State.sawRead_frame (r : HostRead) : (s.sawRead r).frame = s.frame := rfl
@[simp] theorem State.sawRead_params (r : HostRead) : (s.sawRead r).params = s.params := rfl
@[simp] theorem State.sawRead_port (r : HostRead) : (s.sawRead r).port = s.port := rfl
@[simp] theorem State.sawRead_lastRead (r : HostRead) : (s.sawRead r).lastRead = some r := rfl
@[simp] theorem State.sawRead_draws (r : HostRead) : (s.sawRead r).draws = s.draws := rfl
@[simp] theorem State.sawRead_running (r : HostRead) : (s.sawRead r).running = s.running := rfl
@[simp] theorem State.sawRead_everFaulted (r : HostRead) : (s.sawRead r).everFaulted = s.everFaulted := rfl

/-! A free value is used: `State.countDraw`. -/

@[simp] theorem State.countDraw_acc : (s.countDraw).acc = s.acc := rfl
@[simp] theorem State.countDraw_len : (s.countDraw).len = s.len := rfl
@[simp] theorem State.countDraw_busy : (s.countDraw).busy = s.busy := rfl
@[simp] theorem State.countDraw_err : (s.countDraw).err = s.err := rfl
@[simp] theorem State.countDraw_lost : (s.countDraw).lost = s.lost := rfl
@[simp] theorem State.countDraw_cause : (s.countDraw).cause = s.cause := rfl
@[simp] theorem State.countDraw_info : (s.countDraw).info = s.info := rfl
@[simp] theorem State.countDraw_op : (s.countDraw).op = s.op := rfl
@[simp] theorem State.countDraw_frame : (s.countDraw).frame = s.frame := rfl
@[simp] theorem State.countDraw_params : (s.countDraw).params = s.params := rfl
@[simp] theorem State.countDraw_port : (s.countDraw).port = s.port := rfl
@[simp] theorem State.countDraw_lastRead : (s.countDraw).lastRead = s.lastRead := rfl
@[simp] theorem State.countDraw_draws : (s.countDraw).draws = s.draws + 1 := rfl
@[simp] theorem State.countDraw_running : (s.countDraw).running = s.running := rfl
@[simp] theorem State.countDraw_everFaulted : (s.countDraw).everFaulted = s.everFaulted := rfl

/-! Reset (R140): `State.applyReset`. -/

@[simp] theorem State.applyReset_acc : (s.applyReset).acc = 0xFFFF := rfl
@[simp] theorem State.applyReset_len : (s.applyReset).len = 0 := rfl
@[simp] theorem State.applyReset_busy : (s.applyReset).busy = false := rfl
@[simp] theorem State.applyReset_err : (s.applyReset).err = false := rfl
@[simp] theorem State.applyReset_lost : (s.applyReset).lost = false := rfl
@[simp] theorem State.applyReset_cause : (s.applyReset).cause = .none := rfl
@[simp] theorem State.applyReset_info : (s.applyReset).info = 0 := rfl
@[simp] theorem State.applyReset_op : (s.applyReset).op = .idle := rfl
@[simp] theorem State.applyReset_frame : (s.applyReset).frame = s.frame := rfl
@[simp] theorem State.applyReset_params : (s.applyReset).params = s.params := rfl
@[simp] theorem State.applyReset_port : (s.applyReset).port = s.port := rfl
@[simp] theorem State.applyReset_lastRead : (s.applyReset).lastRead = s.lastRead := rfl
@[simp] theorem State.applyReset_draws : (s.applyReset).draws = s.draws := rfl
@[simp] theorem State.applyReset_running : (s.applyReset).running = none := rfl
@[simp] theorem State.applyReset_everFaulted : (s.applyReset).everFaulted = s.everFaulted := rfl

end Sys2Proof.Machine
end

