-- ==== Sys2Proof/Laws/Ops.lean ====
section
/-! SUPPORT. One lemma per shared operation, which says once everything the operation can do. -/

namespace Sys2Proof.Machine

variable {s t : State} {f : State → State}

/-- What offering a command answers: it waits, is dropped, or has its effect (R19, R129). -/
theorem State.offer_eq_next (h : s.offer f = .next t) :
    (s.busy = true ∧ t = s) ∨ (s.busy = false ∧ s.err = true ∧ t = s.dropCommand) ∨
      (s.busy = false ∧ s.err = false ∧ t = f s) := by
  unfold State.offer at h
  split at h
  · next hb => exact .inl ⟨hb, (Host.Outcome.next.inj h).symm⟩
  · next hb =>
    have hb : s.busy = false := by simpa using hb
    split at h
    · next he => exact .inr (.inl ⟨hb, he, (Host.Outcome.next.inj h).symm⟩)
    · next he => exact .inr (.inr ⟨hb, by simpa using he, (Host.Outcome.next.inj h).symm⟩)

/-- The same for `BUSY = 0`, when no command waits. -/
theorem State.offer_eq_next_of_idle (hb : s.busy = false) (h : s.offer f = .next t) :
    (s.err = true ∧ t = s.dropCommand) ∨ (s.err = false ∧ t = f s) := by
  obtain ⟨hb', -⟩ | ⟨-, h⟩ | ⟨-, h⟩ := State.offer_eq_next h
  · simp [hb] at hb'
  · exact .inl h
  · exact .inr h

/-- While BUSY a command waits (R19). -/
theorem State.offer_busy (hb : s.busy = true) : s.offer f = .next s := by simp [State.offer, hb]

/-- While FAULTED a command is dropped (R129). -/
theorem State.offer_faulted (hb : s.busy = false) (he : s.err = true) : s.offer f = .next s.dropCommand := by
  simp [State.offer, hb, he]

/-- While READY a command has its effect. -/
theorem State.offer_ready (hb : s.busy = false) (he : s.err = false) : s.offer f = .next (f s) := by
  simp [State.offer, hb, he]

/-- What accepting `WHDR` does while READY: one of the two faults of R92, or R97. -/
theorem State.acceptWhdr_cases (s : State) (bc : Half) :
    (s.params.bitcntMax.toNat < bc.toNat ∧ s.acceptWhdr bc = s.raise .invalidBitCount (encode (.whdr bc))) ∨
      (bc.toNat ≤ s.params.bitcntMax.toNat ∧ s.len.toNat < need bc ∧
        s.acceptWhdr bc = s.raise .invalidBounds (encode (.whdr bc))) ∨
      (bc.toNat ≤ s.params.bitcntMax.toNat ∧ need bc ≤ s.len.toNat ∧ s.acceptWhdr bc = s.beginWhdr bc) := by
  unfold State.acceptWhdr
  split
  · next h => exact .inl ⟨h, rfl⟩
  · next h =>
    split
    · next h' => exact .inr (.inl ⟨by omega, h', rfl⟩)
    · next h' => exact .inr (.inr ⟨by omega, by omega, rfl⟩)

/-- What reading and folding a byte answers. -/
theorem State.foldFrom_eq_next {off : Half} {n : Fin 9} {o : Op} (h : s.foldFrom off n o = .next t) :
    ∃ v, s.frame.byteAt off.toNat = some v ∧ t = (s.setAcc (updateCrc v s.acc n)).setOp o := by
  unfold State.foldFrom at h
  split at h
  · next v hv => exact ⟨v, memRead_eq_ok.mp hv, (Host.Outcome.next.inj h).symm⟩
  · cases h

/-- What a payload micro-step answers (R100, R101). -/
theorem stepBody_eq_next {ptr rem : Half} (h : stepBody ptr rem s = .next t) :
    (8 ≤ rem.toNat ∧ ∃ v, s.frame.byteAt ptr.toNat = some v ∧
        t = (s.setAcc (updateCrc v s.acc 8)).setOp (.body (ptr + 1) (rem - 8))) ∨
      (rem = 0 ∧ t = s.setOp .wr4) ∨
      (∃ hr : rem.toNat < 9, rem.toNat < 8 ∧ rem ≠ 0 ∧ ∃ v, s.frame.byteAt ptr.toNat = some v ∧
        t = (s.setAcc (updateCrc v s.acc ⟨rem.toNat, hr⟩)).setOp .wr4) := by
  unfold stepBody at h
  split at h
  · next hr => exact .inl ⟨hr, State.foldFrom_eq_next h⟩
  · next hr =>
    split at h
    · next h0 => exact .inr (.inl ⟨h0, (Host.Outcome.next.inj h).symm⟩)
    · next h0 => exact .inr (.inr ⟨by omega, by omega, h0, State.foldFrom_eq_next h⟩)

/-- Everything the block's own step can do, one constructor per rule (R98 to R102). -/
inductive BlockMove (s : State) : State → Prop where
  | idle (hop : s.op = .idle) : BlockMove s s
  | hdr2 {bc : Half} {v : Byte} (hop : s.op = .hdr2 bc) (hv : s.frame.byteAt 2 = some v) :
      BlockMove s ((s.setAcc (updateCrc v s.acc 8)).setOp (.hdr3 bc))
  | hdr3 {bc : Half} {v : Byte} (hop : s.op = .hdr3 bc) (hv : s.frame.byteAt 3 = some v) :
      BlockMove s ((s.setAcc (updateCrc v s.acc 8)).setOp (.body 6 bc))
  | whole {ptr rem : Half} {v : Byte} (hop : s.op = .body ptr rem) (hrem : 8 ≤ rem.toNat)
      (hv : s.frame.byteAt ptr.toNat = some v) :
      BlockMove s ((s.setAcc (updateCrc v s.acc 8)).setOp (.body (ptr + 1) (rem - 8)))
  | partialByte {ptr rem : Half} {v : Byte} (hop : s.op = .body ptr rem) (h0 : rem ≠ 0) (hrem : rem.toNat < 8)
      (hv : s.frame.byteAt ptr.toNat = some v) :
      BlockMove s ((s.setAcc (updateCrc v s.acc ⟨rem.toNat, by omega⟩)).setOp .wr4)
  | noPartial {ptr : Half} (hop : s.op = .body ptr 0) : BlockMove s (s.setOp .wr4)
  | wr4 (hop : s.op = .wr4) : BlockMove s (stepWr4 s)
  | wr5 (hop : s.op = .wr5) : BlockMove s (stepWr5 s)

theorem blockStep_eq_next (h : blockStep s = .next t) : BlockMove s t := by
  unfold blockStep at h
  split at h
  · next hop => cases h; exact .idle hop
  · next hop => obtain ⟨v, hv, rfl⟩ := State.foldFrom_eq_next h; exact .hdr2 hop hv
  · next hop => obtain ⟨v, hv, rfl⟩ := State.foldFrom_eq_next h; exact .hdr3 hop hv
  · next hop =>
    obtain ⟨hr, v, hv, rfl⟩ | ⟨rfl, rfl⟩ | ⟨_, hr, h0, v, hv, rfl⟩ := stepBody_eq_next h
    · exact .whole hop hr hv
    · exact .noPartial hop
    · exact .partialByte hop h0 hr hv
  · next hop => cases h; exact .wr4 hop
  · next hop => cases h; exact .wr5 hop

/-- The block's own step is never refused. -/
theorem blockStep_refused (r : Refusal) : blockStep s ≠ .refused r := by
  intro h
  unfold blockStep stepHdr2 stepHdr3 stepBody State.foldFrom at h
  repeat' split at h
  all_goals cases h

end Sys2Proof.Machine
end

