-- ==== Sys2Proof/Laws/PerInstr.lean ====
section
/-! SUPPORT. The family `LegalEncoding`, one lemma per constructor: the word of a command is selected by its own row of the
opcode table (spec/30_encoding.md R51). -/

namespace Sys2Proof.Laws.LegalEncoding

/-- The command's row selects the command's word. -/
def Statement (i : Instr) : Prop := i.row.selects (encode i) = true

/-- A row selects a word exactly when they agree on the bits of the mask. -/
theorem selects_iff {r : Row} {w : Word} :
    r.selects w = true ↔ ∀ j, j < 32 → (w.getLsbD j && r.mask.getLsbD j) = r.pattern.getLsbD j := by
  rw [Row.selects, beq_iff_eq]
  constructor
  · rintro h j -
    rw [← h, BitVec.getLsbD_and]
  · intro h
    apply BitVec.eq_of_getLsbD_eq
    intro j hj
    rw [BitVec.getLsbD_and, h j hj]

/-- A row with the mask of a 16-bit operand selects every word with its upper half. -/
theorem selects_imm {r : Row} (op : BitVec 4) (hm : r.mask = 0xFFFF0000) (hp : r.pattern = assemble op 0 0 0)
    (imm : Half) : r.selects (assemble op 0 0 imm) = true := by
  rw [selects_iff]
  intro j hj
  rw [hm, hp, getLsbD_assemble, getLsbD_assemble]
  have h : ∀ j < 32, (0xFFFF0000#32).getLsbD j = decide (16 ≤ j) := by decide
  rw [show (0xFFFF0000 : Word) = 0xFFFF0000#32 from rfl, h j hj]
  by_cases h16 : j < 16
  · simp [h16]
  · have h16' : 16 ≤ j := by omega
    simp [h16, h16']

theorem ldacc (v : Half) : Statement (.ldacc v) := selects_imm 1 rfl rfl v

theorem whdr (bc : Half) : Statement (.whdr bc) := selects_imm 3 rfl rfl bc

theorem setlen (len : Half) : Statement (.setlen len) := selects_imm 4 rfl rfl len

theorem clrerr : Statement .clrerr := by unfold Statement; decide

theorem upd8 (b : Byte) : Statement (.upd8 b) := by
  unfold Statement
  rw [selects_iff]
  intro j hj
  simp only [Instr.row, encode, getLsbD_assemble]
  have hm : ∀ j < 32, Row.upd8.mask.getLsbD j = decide (8 ≤ j) := by decide
  have hp : ∀ j < 32, Row.upd8.pattern.getLsbD j = (decide (j = 27) || decide (j = 29)) := by decide
  rw [hm j hj, hp j hj]
  interval_cases j <;> simp

theorem upd (n : BitVec 3) (b : Byte) : Statement (.upd n b) := by
  unfold Statement
  rw [selects_iff]
  intro j hj
  simp only [Instr.row, encode, getLsbD_assemble]
  have hm : ∀ j < 32, Row.upd.mask.getLsbD j = (decide (8 ≤ j ∧ j < 24) || decide (27 ≤ j)) := by decide
  have hp : ∀ j < 32, Row.upd.pattern.getLsbD j = decide (j = 29) := by decide
  rw [hm j hj, hp j hj]
  interval_cases j <;> simp

end Sys2Proof.Laws.LegalEncoding
end

