-- ==== Sys2Proof/Laws/Step.lean ====
section
/-! SUPPORT. What accepting a command and what a step can do, said once. -/

namespace Sys2Proof.Machine

variable {s t : State}

/-- Everything an accepted command can do (R131), for `BUSY = 0`. -/
inductive ExecMove (s : State) : Instr → State → Prop where
  | dropped {i : Instr} (he : s.err = true) (hi : i ≠ .clrerr) : ExecMove s i s.dropCommand
  | cleared : ExecMove s .clrerr s.clearError
  | ldacc (v : Half) (he : s.err = false) : ExecMove s (.ldacc v) (s.setAcc v)
  | upd (n : BitVec 3) (b : Byte) (he : s.err = false) :
      ExecMove s (.upd n b) (s.setAcc (updateCrc b s.acc (updCount n)))
  | upd8 (b : Byte) (he : s.err = false) : ExecMove s (.upd8 b) (s.setAcc (updateCrc b s.acc 8))
  | setlen (len : Half) (he : s.err = false) : ExecMove s (.setlen len) (s.setLen len)
  | badCount {bc : Half} (he : s.err = false) (hc : s.params.bitcntMax.toNat < bc.toNat) :
      ExecMove s (.whdr bc) (s.raise .invalidBitCount (encode (.whdr bc)))
  | badBounds {bc : Half} (he : s.err = false) (hc : bc.toNat ≤ s.params.bitcntMax.toNat)
      (hl : s.len.toNat < need bc) : ExecMove s (.whdr bc) (s.raise .invalidBounds (encode (.whdr bc)))
  | begun {bc : Half} (he : s.err = false) (hc : bc.toNat ≤ s.params.bitcntMax.toNat) (hl : need bc ≤ s.len.toNat) :
      ExecMove s (.whdr bc) (s.beginWhdr bc)

theorem exec_eq_next {i : Instr} (hb : s.busy = false) (h : exec i s = .next t) : ExecMove s i t := by
  cases i with
  | clrerr =>
    simp only [exec, execClrerr, hb] at h
    cases h
    exact .cleared
  | whdr bc =>
    obtain ⟨he, rfl⟩ | ⟨he, rfl⟩ := State.offer_eq_next_of_idle (f := (·.acceptWhdr bc)) hb h
    · exact .dropped he nofun
    · obtain ⟨hc, e⟩ | ⟨hc, hl, e⟩ | ⟨hc, hl, e⟩ := s.acceptWhdr_cases bc <;> rw [e]
      · exact .badCount he hc
      · exact .badBounds he hc hl
      · exact .begun he hc hl
  | ldacc v =>
    obtain ⟨he, rfl⟩ | ⟨he, rfl⟩ := State.offer_eq_next_of_idle (f := (·.setAcc v)) hb h
    · exact .dropped he nofun
    · exact .ldacc v he
  | upd n b =>
    obtain ⟨he, rfl⟩ | ⟨he, rfl⟩ :=
      State.offer_eq_next_of_idle (f := fun s => s.setAcc (updateCrc b s.acc (updCount n))) hb h
    · exact .dropped he nofun
    · exact .upd n b he
  | upd8 b =>
    obtain ⟨he, rfl⟩ | ⟨he, rfl⟩ :=
      State.offer_eq_next_of_idle (f := fun s => s.setAcc (updateCrc b s.acc 8)) hb h
    · exact .dropped he nofun
    · exact .upd8 b he
  | setlen len =>
    obtain ⟨he, rfl⟩ | ⟨he, rfl⟩ := State.offer_eq_next_of_idle (f := (·.setLen len)) hb h
    · exact .dropped he nofun
    · exact .setlen len he

/-- Everything the acceptance of a word can do, for `BUSY = 0`: it is a command, or illegal and dropped, or illegal and
the fault of R122. -/
theorem acceptWord_eq_next {w : Word} (hb : s.busy = false) (h : acceptWord w s = .next t) :
    (∃ i, decode w = .ok i ∧ ExecMove s i t) ∨
      (∃ e, decode w = .error e ∧
        (s.err = true ∧ t = s.dropCommand ∨ s.err = false ∧ t = s.raise .illegalCommand w)) := by
  unfold acceptWord at h
  split at h
  · next i hi => exact .inl ⟨i, hi, exec_eq_next hb h⟩
  · next e he =>
    refine .inr ⟨e, he, ?_⟩
    exact State.offer_eq_next_of_idle (f := (·.raise .illegalCommand w)) hb h

/-- Everything a step can do: whose turn it is, and what that turn answers (R25). -/
inductive StepMove (s : State) : State → Prop where
  | block {t : State} (hp : s.port = []) (h : blockStep s = .next t) : StepMove s t
  | pass {rest : List HostMove} {t : State} (hp : s.port = .pass :: rest) (h : blockStep (s.setPort rest) = .next t) :
      StepMove s t
  | wait {w : Word} {rest : List HostMove} {t : State} (hp : s.port = .command w :: rest) (hb : s.busy = true)
      (h : blockStep s = .next t) : StepMove s t
  | accept {w : Word} {rest : List HostMove} {t : State} (hp : s.port = .command w :: rest) (hb : s.busy = false)
      (h : acceptWord w (s.setPort rest) = .next t) : StepMove s t
  | readReg {idx : BitVec 3} {rest : List HostMove} (hp : s.port = .readReg idx :: rest) :
      StepMove s (hostReadReg idx (s.setPort rest))
  | readByte {off : Half} {rest : List HostMove} {t : State} (hp : s.port = .readByte off :: rest)
      (h : hostReadByte off (s.setPort rest) = .next t) : StepMove s t
  | writeByte {off : Half} {v : Byte} {rest : List HostMove} (hp : s.port = .writeByte off v :: rest)
      (hop : s.op = .idle) : StepMove s ((s.setPort rest).storeByte off v)
  | reset {rest : List HostMove} (hp : s.port = .reset :: rest) : StepMove s (s.setPort rest).applyReset

theorem step_eq_next (h : step s = .next t) : StepMove s t := by
  unfold step at h
  split at h
  · next hp => exact .block hp h
  · next hp => exact .pass hp h
  · next hp =>
    split at h
    · next hb => exact .wait hp hb h
    · next hb => exact .accept hp (by simpa using hb) h
  · next hp => cases h; exact .readReg hp
  · next hp => exact .readByte hp h
  · next hp =>
    unfold hostWriteByte at h
    split at h
    · next hop => cases h; exact .writeByte hp hop
    · cases h
  · next hp => cases h; exact .reset hp

/-- What the host's read of a register leaves: only what it saw and the count of draws change. -/
theorem hostReadReg_eq (idx : BitVec 3) (s : State) :
    ∃ r n, hostReadReg idx s = { s with lastRead := some r, draws := n } := by
  unfold hostReadReg
  split
  · exact ⟨_, _, rfl⟩
  · exact ⟨_, s.draws, rfl⟩

/-- What the host's read of a byte leaves: only what it saw and the count of draws change. -/
theorem hostReadByte_eq_next {off : Half} (h : hostReadByte off s = .next t) :
    ∃ v n, s.byteSeen off = some v ∧ t = { s with lastRead := some (.byte off v), draws := n } := by
  unfold hostReadByte at h
  split at h
  · cases h
  · next v hv =>
    refine ⟨v, if s.crcByteInFlight off then s.draws + 1 else s.draws, hv, ?_⟩
    rw [← Host.Outcome.next.inj h]
    cases s.crcByteInFlight off <;> rfl

end Sys2Proof.Machine
end

