-- ==== Sys2Proof/Laws/Whdr.lean ====
section
/-! SUPPORT. The fold and the one-step description of `WHDR`: what each function answers, said once. -/

namespace Sys2Proof.Machine

/-! ## The fold (R72) -/

@[simp] theorem foldBits_zero (value : Byte) (acc : Half) : foldBits value acc 0 = acc := rfl

theorem foldBits_succ (value : Byte) (acc : Half) (k : Nat) :
    foldBits value acc (k + 1) = fold1 (foldBits value acc k) (value.getLsbD (8 - (k + 1))) := rfl

theorem updateCrc_eq (value : Byte) (acc : Half) (n : Fin 9) : updateCrc value acc n = foldBits value acc n.val := rfl

/-! ## The one-step description (R91) -/

variable {m : Memory} {acc c ptr off : Half}

/-- Folding in a byte succeeds exactly where the byte is written. -/
theorem foldByte_eq_ok {n : Fin 9} :
    foldByte m off n acc = .ok c ↔ ∃ v, m.byteAt off.toNat = some v ∧ c = updateCrc v acc n := by
  unfold foldByte memRead
  cases m.byteAt off.toNat <;> simp [eq_comm]

@[simp] theorem foldWhole_zero : foldWhole m acc ptr 0 = .ok acc := rfl

/-- One more whole byte (R91 step 3). -/
theorem foldWhole_succ_eq_ok {k : Nat} :
    foldWhole m acc ptr (k + 1) = .ok c ↔
      ∃ v, m.byteAt ptr.toNat = some v ∧ foldWhole m (updateCrc v acc 8) (ptr + 1) k = .ok c := by
  rw [foldWhole]
  cases h : foldByte m ptr 8 acc with
  | ok a =>
    obtain ⟨v, hv, rfl⟩ := foldByte_eq_ok.mp h
    simp [hv]
  | error f =>
    simp only [reduceCtorEq, false_iff]
    rintro ⟨v, hv, -⟩
    have h' : foldByte m ptr 8 acc = .ok (updateCrc v acc 8) := foldByte_eq_ok.mpr ⟨v, hv, rfl⟩
    rw [h'] at h
    cases h

/-- The four steps of R91 that compute the CRC. -/
theorem frameCrc_eq_ok {bc : Half} :
    frameCrc m bc = .ok c ↔
      ∃ v2 v3 a, m.byteAt 2 = some v2 ∧ m.byteAt 3 = some v3 ∧
        foldWhole m (updateCrc v3 (updateCrc v2 0xFFFF 8) 8) 6 (wholeBytes bc) = .ok a ∧
        foldPartial m (6 + BitVec.ofNat 16 (wholeBytes bc)) (partialBits bc) a = .ok c := by
  unfold frameCrc
  constructor
  · intro h
    repeat' split at h
    all_goals try cases h
    next a2 h2 _ a3 h3 _ a ha =>
      obtain ⟨v2, hv2, rfl⟩ := foldByte_eq_ok.mp h2
      obtain ⟨v3, hv3, rfl⟩ := foldByte_eq_ok.mp h3
      exact ⟨v2, v3, a, hv2, hv3, ha, h⟩
  · rintro ⟨v2, v3, a, hv2, hv3, ha, h⟩
    have h2 : foldByte m hdrOffA 8 crcInit = .ok (updateCrc v2 0xFFFF 8) := foldByte_eq_ok.mpr ⟨v2, hv2, rfl⟩
    have h3 : foldByte m hdrOffB 8 (updateCrc v2 0xFFFF 8) = .ok (updateCrc v3 (updateCrc v2 0xFFFF 8) 8) :=
      foldByte_eq_ok.mpr ⟨v3, hv3, rfl⟩
    have ha : foldWhole m (updateCrc v3 (updateCrc v2 0xFFFF 8) 8) payloadOff (wholeBytes bc) = .ok a := ha
    simp only [h2, h3, ha]
    exact h

/-- What the one-step description answers (R91, R95). -/
theorem whdrAtomic_eq_next {s t : State} {bc : Half} :
    whdrAtomic bc s = .next t ↔ ∃ c, frameCrc s.frame bc = .ok c ∧ t = s.storeCrc c := by
  unfold whdrAtomic
  cases frameCrc s.frame bc <;> simp [eq_comm]

/-- The bytes of the frame after the CRC is stored (R91 step 5). -/
theorem State.storeCrc_byteAt (s : State) (c : Half) (a : Nat) :
    (s.storeCrc c).frame.byteAt a =
      if a = 5 then some (crcLo c) else if a = 4 then some (crcHi c) else s.frame.byteAt a := by
  have h4 : crcOffHi.toNat = 4 := rfl
  have h5 : crcOffLo.toNat = 5 := rfl
  simp only [State.storeCrc, State.storeByte_frame, State.setAcc_frame, h4, h5]
  split
  · next h => subst h; exact Memory.byteAt_setByte_same _ _ _
  · next h =>
    rw [Memory.byteAt_setByte_other _ _ h]
    split
    · next h => subst h; exact Memory.byteAt_setByte_same _ _ _
    · next h => exact Memory.byteAt_setByte_other _ _ h

/-! ## Runs -/

@[simp] theorem blockRun_zero (s : State) : blockRun 0 s = .next s := rfl

theorem blockRun_succ {s t : State} (n : Nat) (h : blockStep s = .next t) : blockRun (n + 1) s = blockRun n t := by
  simp [blockRun, h]

@[simp] theorem execAll_nil (s : State) : execAll [] s = .next s := rfl

theorem execAll_cons {s t : State} {i : Instr} (is : List Instr) (h : exec i s = .next t) :
    execAll (i :: is) s = execAll is t := by
  simp [execAll, h]

end Sys2Proof.Machine
end

