-- ==== Sys2Proof/Tests/Slice0.lean ====
section
/-! SUPPORT. The model's own tests. Expected values are the spec's (spec/95_test_vectors.md, V<n> and P<n>), or its
encodings written out (spec/30_encoding.md). Then, for every statement with hypotheses, a witness that meets them. -/

namespace Sys2Proof.Tests

open Sys2Proof Sys2Proof.Machine

/-! ## Helpers -/

/-- The state an outcome holds, if it is a next state. -/
def after (o : Host.Outcome State Fault Refusal) : Option State :=
  match o with
  | .next s => some s
  | .fault _ => none
  | .refused _ => none

theorem next_of_after {o : Host.Outcome State Fault Refusal} {t : State} (h : after o = some t) : o = .next t := by
  cases o <;> simp_all [after]

/-- The fault an outcome holds, if it is one. -/
def stop (o : Host.Outcome State Fault Refusal) : Option Fault :=
  match o with
  | .next _ => none
  | .fault f => some f
  | .refused _ => none

/-- A step with the word presented. -/
def present (s : State) (w : Word) : Option State := after (step (s.withFetchWord 32 w.toNat))

/-- The frame of V40. -/
def frame40 : Memory := [(0, 0xFF), (1, 0xFD), (2, 0xFF), (3, 0x3C), (4, 0), (5, 0), (6, 0xAA), (7, 0x55)]

/-- The reset state with a frame and its length declared. -/
def framed (len : Half) : State := { State.reset with len := len, frame := frame40 }

/-- FAULTED after V70. -/
def faulted : State := { State.reset with err := true, cause := .invalidBounds, info := 0x30000010, everFaulted := true }

/-- The `WHDR 16` of V40 after its acceptance and `n` micro-steps. -/
def flight (n : Nat) : State :=
  match blockRun n ((framed 8).beginWhdr 16) with
  | .next t => t
  | .fault _ => State.reset
  | .refused _ => State.reset

/-- A state with the host's moves in store. -/
def moves (s : State) (p : List HostMove) : State := s.setPort p

/-! ## Well-formedness: an ill-formed word for each clause of R54, which the check refuses -/

theorem smoke_reservedField : legalWord 0x10010000 = false ∧ legalWord 0x28800055 = false := by decide
theorem smoke_reservedOpcode : legalWord 0x00000000 = false ∧ legalWord 0xF0000000 = false := by decide
theorem smoke_countNotZero : legalWord 0x31000010 = false ∧ legalWord 0x51000000 = false := by decide
theorem smoke_countOutOfRange : legalWord 0x29000000 = false ∧ legalWord 0x2F0000FF = false := by decide
theorem smoke_dataHighByte : legalWord 0x28000100 = false ∧ legalWord 0x2000FF00 = false := by decide
theorem smoke_operandNotZero : legalWord 0x50000001 = false := by decide
theorem smoke_legal : legalWord 0x2800003C = true ∧ legalWord 0x270000FF = true ∧ legalWord 0x50000000 = true := by decide

/-! ## Decoding: words written out bit by bit from the table of R50 (`op`, `n`, `z`, `imm`) -/

theorem test_decode_ldacc : decode 0b0001_0000_00000000_1010101111001101 = .ok (.ldacc 0xABCD) := by decide
theorem test_decode_upd : decode 0b0010_0011_00000000_0000000010100000 = .ok (.upd 3 0xA0) := by decide
theorem test_decode_upd_zero : decode 0b0010_0000_00000000_0000000010100101 = .ok (.upd 0 0xA5) := by decide
theorem test_decode_upd_seven : decode 0b0010_0111_00000000_0000000011111111 = .ok (.upd 7 0xFF) := by decide
theorem test_decode_upd8 : decode 0b0010_1000_00000000_0000000000111100 = .ok (.upd8 0x3C) := by decide
theorem test_decode_whdr : decode 0b0011_0000_00000000_0000000000010000 = .ok (.whdr 16) := by decide
theorem test_decode_setlen : decode 0b0100_0000_00000000_1111111111111111 = .ok (.setlen 65535) := by decide
theorem test_decode_clrerr : decode 0b0101_0000_00000000_0000000000000000 = .ok .clrerr := by decide

/-- V15 to V29, the reason of each. -/
theorem test_decode_illegal :
    decode 0xFFFFFFFF = .error .reservedField ∧ decode 0x60000000 = .error .reservedOpcode ∧
    decode 0x29000000 = .error .countOutOfRange ∧ decode 0x2000FF00 = .error .dataHighByte ∧
    decode 0x11000000 = .error .countNotZero ∧ decode 0x51000000 = .error .countNotZero ∧
    decode 0x50000001 = .error .operandNotZero := by decide

/-- R58. -/
theorem test_encode :
    encode (.ldacc 0xFFFF) = 0x1000FFFF ∧ encode (.upd 3 0xA0) = 0x230000A0 ∧ encode (.upd8 0x3C) = 0x2800003C ∧
    encode (.whdr 65535) = 0x3000FFFF ∧ encode (.setlen 1000) = 0x400003E8 ∧ encode .clrerr = 0x50000000 := by decide

/-- R56, R57: the lines of V1 and V6. -/
theorem test_line : Instr.init.line = "LDACC 65535" ∧ (Instr.upd 3 0xA0).line = "UPD 3, 160" ∧
    (Instr.updb 0xFF).line = "UPD 8, 255" := by decide +kernel

/-! ## The commands -/

/-- The example of R75. -/
theorem test_ldacc : (present { State.reset with acc := 0x1234 } 0x1000FFFF).map (·.acc) = some 0xFFFF := by decide

/-- V108, V109: `UPD 3` takes the top three bits, and ignores the low five. -/
theorem test_upd : (present State.reset 0x230000A0).map (·.acc) = some 0x7FF7 ∧
    (present State.reset 0x230000BF).map (·.acc) = some 0x7FF7 := by decide

/-- V101, V106, V111: no bit, one bit, seven bits. -/
theorem test_updateCrc_counts : updateCrc 0xA5 0x1234 0 = 0x1234 ∧ updateCrc 0x7F 0 1 = 0 ∧ updateCrc 0x01 0 7 = 0 := by
  decide

/-- V119, V123: two whole bytes. -/
theorem test_upd8 : (present State.reset 0x280000FF).map (·.acc) = some 0xFF00 ∧
    (present { State.reset with acc := 0xFF00 } 0x2800003C).map (·.acc) = some 0x028A := by decide

/-- V12, V94. -/
theorem test_setlen : (present State.reset 0x40000008).map (·.len) = some 8 ∧
    (present (framed 8) 0x40000000).map (·.len) = some 0 := by decide

/-- V91: `CLRERR` returns from FAULTED, and `ACC` and `LEN` keep their values. -/
theorem test_clrerr : present { faulted with lost := true, acc := 0x1234 } 0x50000000 =
    some { State.reset with acc := 0x1234, everFaulted := true } := by decide

/-- V93, V90, V88: while FAULTED any other word is dropped. -/
theorem test_dropped : present faulted 0x50000001 = some { faulted with lost := true } ∧
    present faulted 0x00000000 = some { faulted with lost := true } ∧
    present faulted 0x280000FF = some { faulted with lost := true } := by decide

/-- V82: an illegal word faults and folds nothing. -/
theorem test_illegal : present State.reset 0x29000000 =
    some { State.reset with err := true, cause := .illegalCommand, info := 0x29000000, everFaulted := true } := by decide

/-- V70, V72, V73: the bounds check, and that its bound is inclusive. -/
theorem test_whdr_bounds : present State.reset 0x30000010 = some faulted ∧
    (present (framed 6) 0x30000000).map (·.err) = some false ∧
    (present (framed 6) 0x30000001).map (·.cause) = some .invalidBounds := by decide

/-- V78, V79, V87: the priority of the causes. -/
theorem test_whdr_priority :
    (present { framed 65535 with params := { bitcntMax := 4096 } } 0x30001001).map (·.cause) = some .invalidBitCount ∧
    (present { framed 0 with params := { bitcntMax := 4096 } } 0x30001001).map (·.cause) = some .invalidBitCount ∧
    (present State.reset 0x31000010).map (·.cause) = some .illegalCommand := by decide

/-- V40: the accumulator after each micro-step, and the two stored bytes. -/
theorem test_whdr_trace : (flight 1).acc = 0xFF00 ∧ (flight 2).acc = 0x028A ∧ (flight 3).acc = 0x09F3 ∧
    (flight 4).acc = 0xF2C8 ∧ (flight 5).op = .wr4 ∧ (flight 6).frame.byteAt 4 = some 0xF2 ∧
    (flight 6).frame.byteAt 5 = some 0 ∧ (flight 7).frame.byteAt 5 = some 0xC8 ∧ (flight 7).op = .idle := by decide

/-- V42 to V46 on the frame of V40 (they do not read offset 8): one bit, seven bits, a whole byte, and across the boundary. -/
theorem test_frameCrc : frameCrc frame40 0 = .ok 0x028A ∧ frameCrc frame40 1 = .ok 0x8511 ∧
    frameCrc frame40 7 = .ok 0xC4FB ∧ frameCrc frame40 8 = .ok 0x09F3 ∧ frameCrc frame40 9 = .ok 0x13E6 ∧
    frameCrc frame40 15 = .ok 0xF964 ∧ frameCrc frame40 16 = .ok 0xF2C8 := by decide +kernel

/-- V48's eighth byte is not there: the read of offset 8 stops (U14). -/
theorem test_unwritten : frameCrc frame40 17 = .error (.unwrittenByte 8) := by decide

/-- A command waits while a `WHDR` is in flight (R19). -/
theorem test_waits : (present (flight 2) 0x1000FFFF).map (fun t => (t.acc, t.port)) =
    some (0x09F3, [.command 0x1000FFFF]) := by decide +kernel

/-! ## The host and reset -/

/-- P4: `STATUS` is 2 after step 1 and 6 after step 2. -/
theorem test_status : faulted.regPort 2 = 2 ∧ { faulted with lost := true }.regPort 2 = 6 ∧ faulted.regPort 3 = 3 ∧
    faulted.regPort 4 = 0x30000010 ∧ faulted.regPort 5 = 0 ∧ (flight 1).regPort 2 = 1 := by decide

/-- Reset between the two stores (R141): offset 4 is new, offset 5 is old. -/
theorem test_reset_cuts : (after (step (moves (flight 6) [.reset]))).map
    (fun t => (t.frame.byteAt 4, t.frame.byteAt 5, t.busy, t.len)) = some (some 0xF2, some 0, false, 0) := by decide +kernel

/-- The host writes and reads a byte; it has no write while a `WHDR` is in flight (R146). -/
theorem test_host : (after (step (moves (framed 8) [.writeByte 6 0x11]))).map (·.frame.byteAt 6) = some (some 0x11) ∧
    (after (step (moves (framed 8) [.readByte 3]))).map (·.lastRead) = some (some (.byte 3 0x3C)) ∧
    stop (step (moves (flight 1) [.writeByte 6 0x11])) = some (.hostWriteInFlight 6) := by decide

/-! ## Witnesses: concrete states and operands that meet the hypotheses of each statement -/

theorem reset_inv : State.reset.Inv where
  lost_err := by decide
  err_cause := by decide
  err_info := by decide
  busy_err := by decide
  idle_busy := by decide
  in_flight := trivial
  frame_wf := by decide
  err_ever := by decide

theorem framed_inv (len : Half) : (framed len).Inv where
  lost_err := by simp [framed, State.reset]
  err_cause := by simp [framed, State.reset]
  err_info := by simp [framed, State.reset]
  busy_err := by simp [framed, State.reset]
  idle_busy := by simp [framed, State.reset]
  in_flight := trivial
  frame_wf := by rfl
  err_ever := by simp [framed, State.reset]

/-- A `WHDR 16` at its first whole payload byte. -/
theorem flight2_inv : (flight 2).Inv where
  lost_err := by decide
  err_cause := by decide
  err_info := by decide
  busy_err := by decide
  idle_busy := by decide
  in_flight := by
    show (16#16).toNat ≤ (16#16).toNat ∧ _
    decide
  frame_wf := by decide
  err_ever := by decide

/-- The same `WHDR 16` after its payload: `Body(8, 0)`. -/
theorem flight4_inv : (flight 4).Inv where
  lost_err := by decide
  err_cause := by decide
  err_info := by decide
  busy_err := by decide
  idle_busy := by decide
  in_flight := by
    show (0#16).toNat ≤ (16#16).toNat ∧ _
    decide
  frame_wf := by decide
  err_ever := by decide

theorem faulted_inv : faulted.Inv where
  lost_err := by decide
  err_cause := by decide
  err_info := by decide
  busy_err := by decide
  idle_busy := by decide
  in_flight := trivial
  frame_wf := by decide
  err_ever := by decide

theorem frame40_window (bc : Half) (h : need bc ≤ 8) : WindowWritten frame40 bc := by
  intro a ha
  have : a < 8 := by omega
  interval_cases a <;> rfl

theorem witness_DecodeThenEncode : decode 0x2800003C = .ok (.upd8 0x3C) := by decide

/-- A word of each row, and one of none. -/
theorem witness_OpcodeTableSelectsCommands :
    Row.ldacc.selects 0x1000ABCD = true ∧ Row.upd.selects 0x270000FF = true ∧ Row.upd8.selects 0x280000FF = true ∧
    Row.whdr.selects 0x3000FFFF = true ∧ Row.setlen.selects 0x40000008 = true ∧ Row.clrerr.selects 0x50000000 = true ∧
    ∀ r ∈ opcodeRows, r.selects 0x29000000 = false := by decide

/-- An illegal word for each clause of R54, and a READY and a FAULTED state. -/
theorem witness_IllegalWordsExactly :
    zField 0x10010000 ≠ 0 ∧ opField 0x00000000 = 0 ∧ 6 ≤ (opField 0x60000000).toNat ∧
    (opField 0x11000000 = 1 ∧ nField 0x11000000 ≠ 0) ∧ (opField 0x29000000 = 2 ∧ 9 ≤ (nField 0x29000000).toNat) ∧
    (opField 0x28000100 = 2 ∧ immHi 0x28000100 ≠ 0) ∧ (opField 0x50000001 = 5 ∧ immField 0x50000001 ≠ 0) ∧
    decode 0x00000000 = .error .reservedOpcode ∧ State.reset.Ready ∧ faulted.Faulted := by decide

theorem witness_StepRunsThePresentedCommand :
    (moves State.reset [.command 0x1000ABCD]).port = [.command 0x1000ABCD] ∧
    (moves State.reset [.command 0x1000ABCD]).busy = false ∧ decode 0x1000ABCD = .ok (.ldacc 0xABCD) ∧
    decode 0x00000000 = .error .reservedOpcode := by decide

theorem witness_CommandWaitsWhileBusy : (moves (flight 1) [.command 0x1000ABCD]).busy = true ∧
    (moves (flight 1) [.command 0x1000ABCD]).port = [.command 0x1000ABCD] := by decide

/-- `FoldOneBitByBit`: both ends of the range of `i`. -/
theorem witness_FoldOneBitByBit : 3 ≤ 3 ∧ 3 ≤ 14 ∧ 14 ≤ (14 : Nat) := by decide

/-- The sequence of the statement for `n = 8`, and two bytes that agree in their top three bits. -/
theorem witness_UpdateCrcConsumesTheTopBits :
    (foldBits 0xAA 0x028A 0 = 0x028A ∧ ∀ k, 1 ≤ k → k ≤ (8 : Fin 9).val →
      foldBits 0xAA 0x028A k = fold1 (foldBits 0xAA 0x028A (k - 1)) ((0xAA : Byte).getLsbD (8 - k))) ∧
    (∀ j, 8 - (3 : Fin 9).val ≤ j → j < 8 → (0xA0 : Byte).getLsbD j = (0xBF : Byte).getLsbD j) := by
  refine ⟨⟨rfl, fun k h1 _ => ?_⟩, fun j h1 h2 => ?_⟩
  · cases k with
    | zero => omega
    | succ k => rfl
  · have : 5 ≤ j := h1
    interval_cases j <;> rfl

theorem witness_UpdateCrcSplits : (8 : Fin 9).val = (3 : Fin 9).val + (5 : Fin 9).val := by decide

/-- READY, FAULTED, and a word with `op = 1` that is not `LDACC`. -/
theorem witness_LdaccLoadsTheAccumulator : State.reset.Ready ∧ faulted.Faulted ∧
    opField 0x11000000 = 1 ∧ nField 0x11000000 ≠ 0 ∧ opField 0x10010000 = 1 ∧ zField 0x10010000 ≠ 0 := by decide

/-- READY, FAULTED, and words with `op = 2` that are not `UPD`. -/
theorem witness_UpdFoldsTheTopBits : State.reset.Ready ∧ faulted.Faulted ∧
    (opField 0x29000000 = 2 ∧ 9 ≤ (nField 0x29000000).toNat) ∧ (opField 0x28000100 = 2 ∧ immHi 0x28000100 ≠ 0) ∧
    (opField 0x28800055 = 2 ∧ zField 0x28800055 ≠ 0) := by decide

/-- READY, FAULTED, words with `op = 4` that are not `SETLEN`, and a length of 5 with a `WHDR 0` that check 1 lets by. -/
theorem witness_SetlenSetsTheLength : State.reset.Ready ∧ faulted.Faulted ∧
    (opField 0x48000008 = 4 ∧ nField 0x48000008 ≠ 0) ∧ (opField 0x40010000 = 4 ∧ zField 0x40010000 ≠ 0) ∧
    (framed 5).Ready ∧ (framed 5).len.toNat < 6 ∧ (0 : Half).toNat ≤ (framed 5).params.bitcntMax.toNat := by decide

theorem witness_ClrerrReturnsToReady : State.reset.Inv ∧ State.reset.Ready ∧ faulted.Faulted ∧ faulted.busy = false ∧
    (opField 0x51000000 = 5 ∧ nField 0x51000000 ≠ 0) ∧ (opField 0x50010000 = 5 ∧ zField 0x50010000 ≠ 0) ∧
    (opField 0x50000001 = 5 ∧ immField 0x50000001 ≠ 0) := ⟨reset_inv, by decide⟩

theorem witness_RegisterCommandsFrame : (∀ bc, Instr.ldacc 5 ≠ .whdr bc) ∧
    exec (.ldacc 5) State.reset = .next { State.reset with acc := 5 } ∧
    exec (.upd8 0xFF) faulted = .next { faulted with lost := true } :=
  ⟨fun _ => nofun, rfl, rfl⟩

theorem witness_IllegalWordFaults : (moves State.reset [.command 0]).port = [.command 0] ∧
    (moves State.reset [.command 0]).Ready ∧ decode 0 = .error .reservedOpcode ∧
    opField 0x29000000 = 2 ∧ 9 ≤ (nField 0x29000000).toNat := by decide

theorem witness_CommandDroppedWhileFaulted : (moves faulted [.command 0x50000001]).port = [.command 0x50000001] ∧
    (moves faulted [.command 0x50000001]).Faulted ∧ (0x50000001 : Word) ≠ 0x50000000 := by decide

/-- Check 1 just fires (4097 against 4096), and check 2 just fires (`need` 7 against `LEN` 6). -/
theorem witness_WhdrChecksInOrder :
    ({ framed 65535 with params := { bitcntMax := 4096 } } : State).Ready ∧
    decode 0x30001001 = .ok (.whdr 4097) ∧ (4096 : Half).toNat < (4097 : Half).toNat ∧
    (framed 6).Ready ∧ decode 0x30000001 = .ok (.whdr 1) ∧
    (1 : Half).toNat ≤ (framed 6).params.bitcntMax.toNat ∧ (framed 6).len.toNat < 6 + ((1 : Half).toNat + 7) / 8 := by
  decide

/-- A step that keeps a fault, one that clears it, one that enters it, and one that loses a command. -/
theorem witness_FaultStaysUntilClrerrOrReset :
    (present faulted 0x1000FFFF).map (fun t => (t.err, t.lost)) = some (true, true) ∧
    (present faulted 0x50000000).map (·.err) = some false ∧
    (after (step (moves faulted [.reset]))).map (·.err) = some false ∧
    (present State.reset 0x00000000).map (·.err) = some true := by decide

theorem witness_ClearedFaultRepeats : State.reset.Inv ∧ State.reset.Ready ∧
    exec (.whdr 16) State.reset = .next faulted ∧ faulted.err = true := ⟨reset_inv, by decide, rfl, rfl⟩

/-- `LEN = need` exactly. -/
theorem witness_WhdrAccepted : (framed 8).Ready ∧ (framed 8).op = .idle ∧ (framed 8).ChecksPass 16 := by decide

/-- An accepted, a faulting, a dropped and a waiting `WHDR`. -/
theorem witness_WhdrAcceptanceFrame : exec (.whdr 16) (framed 8) = .next ((framed 8).beginWhdr 16) ∧
    exec (.whdr 16) State.reset = .next faulted ∧ exec (.whdr 16) faulted = .next { faulted with lost := true } ∧
    exec (.whdr 16) (flight 1) = .next (flight 1) := ⟨rfl, rfl, rfl, rfl⟩

theorem witness_HeaderBytesAreFolded : (flight 0).op = .hdr2 16 ∧ (flight 0).frame.byteAt 2 = some 0xFF ∧
    (flight 1).op = .hdr3 16 ∧ (flight 1).frame.byteAt 3 = some 0x3C := by decide

/-- Eight bits left, the last whole byte; none left; and seven and one left, of `WHDR 7` and `WHDR 1`. -/
theorem witness_PayloadBytesAreFolded :
    ((flight 2).Inv ∧ (flight 4).Inv ∧ (flight 4).running = some { bc := 16, old4 := some 0, old5 := some 0 }) ∧
    (flight 3).op = .body 7 8 ∧ (flight 3).frame.byteAt 7 = some 0x55 ∧ (flight 4).op = .body 8 0 ∧
    ({ flight 2 with op := .body 6 7 } : State).frame.byteAt 6 = some 0xAA ∧
    (7 : Fin 9).val = (7 : Half).toNat ∧ (7 : Half).toNat ≤ 7 ∧ (7 : Half) ≠ 0 ∧
    (1 : Fin 9).val = (1 : Half).toNat ∧ (1 : Half) ≠ 0 := ⟨⟨flight2_inv, flight4_inv, by decide⟩, by decide⟩

theorem witness_CrcBytesAreStored : (flight 5).op = .wr4 ∧ (flight 6).op = .wr5 := by decide

/-- A reading, a storing and an idle step. -/
theorem witness_BlockStepFrame : blockStep (flight 2) = .next (flight 3) ∧ (flight 2).op.reads = some 6 ∧
    blockStep (flight 5) = .next (flight 6) ∧ (flight 5).op.writes = some 4 ∧ (flight 5).op.reads = none ∧
    blockStep (flight 6) = .next (flight 7) ∧ (flight 6).op.writes = some 5 ∧
    blockStep State.reset = .next State.reset := ⟨rfl, by decide, rfl, by decide, by decide, rfl, by decide, rfl⟩

/-- A frame that agrees at offset 6 and nowhere else. -/
theorem witness_BlockStepReadsOneByte : (∀ off, (flight 2).op.reads = some off →
    Memory.byteAt [(6, 0xAA)] off.toNat = (flight 2).frame.byteAt off.toNat) ∧
    blockStep (flight 2) = .next (flight 3) := by
  refine ⟨fun off h => ?_, rfl⟩
  have : (6 : Half) = off := Option.some.inj h
  subst this
  decide

/-- A written and an unwritten byte. -/
theorem witness_UnwrittenByteStops : (flight 2).op.reads = some 6 ∧
    (State.reset.beginWhdr 0).op.reads = some 2 ∧ (State.reset.beginWhdr 0).frame.byteAt 2 = none ∧
    stop (blockStep (State.reset.beginWhdr 0)) = some (.unwrittenByte 2) := by decide

theorem witness_BlockStaysInBounds : (flight 2).Inv ∧ (flight 2).op.reads = some 6 ∧ (flight 5).op.writes = some 4 :=
  ⟨flight2_inv, by decide, by decide⟩

theorem witness_MicroStepsRefineWhdr : (framed 8).Inv ∧ (framed 8).Ready ∧ (framed 8).ChecksPass 16 :=
  ⟨framed_inv 8, by decide⟩

theorem witness_WhdrStoresTheCrc : (framed 8).Inv ∧ (framed 8).Ready ∧ (framed 8).ChecksPass 16 ∧
    (framed 8).port = [] ∧ WindowWritten (framed 8).frame 16 :=
  ⟨framed_inv 8, by decide, by decide, rfl, frame40_window 16 (by decide)⟩

/-- The 16 header bits of V40 and one payload bit: `WHDR 1`. -/
theorem witness_CrcFoldsTheProtectedBits : ProtectedBits frame40 1
    [true, true, true, true, true, true, true, true, false, false, true, true, true, true, false, false, true] :=
  ⟨rfl, by decide⟩

/-- V61: a frame that differs at offsets 0, 1, 4 and 5; and a byte without a protected bit. -/
theorem witness_CrcIgnoresUnprotectedBits :
    (∀ i, i < 16 + (16 : Half).toNat → frameBit frame40 i = frameBit (frame40.setByte 4 0x5A) i) ∧
    (∀ k, ¬ ProtectedBit 16 5 k) := by
  refine ⟨by decide, fun k h => ?_⟩
  obtain ⟨-, h | h | ⟨h, -⟩⟩ := h
  · exact absurd h (by decide)
  · exact absurd h (by decide)
  · exact absurd h (by decide)

/-- V60: the first and the last protected bit of the payload of `WHDR 16`, and a header bit. -/
theorem witness_OneFlippedBitChangesTheCrc : ProtectedBit 16 6 7 ∧ ProtectedBit 16 7 0 ∧ ProtectedBit 16 2 0 ∧
    frame40.byteAt (7 : Half).toNat = some 0x55 ∧ frameCrc frame40 16 = .ok 0xF2C8 ∧
    frameCrc (frame40.setByte (7 : Half).toNat (0x55 ^^^ (1#8 <<< 0))) 16 = .ok 0x72CD := by
  refine ⟨⟨by decide, .inr (.inr (by decide))⟩, ⟨by decide, .inr (.inr (by decide))⟩, ⟨by decide, .inl rfl⟩, ?_⟩
  decide +kernel

theorem witness_RepeatedWhdrStoresTheSame : (framed 8).Inv ∧
    whdrAtomic 16 (framed 8) = .next ((framed 8).storeCrc 0xF2C8) := ⟨framed_inv 8, next_of_after (by decide +kernel)⟩

/-- P2 against P1: the four bytes of V40, folded by hand; and `WHDR 9`, which has a partial byte. -/
theorem witness_HandFoldReproducesTheCrc :
    whdrAtomic 9 (framed 8) = .next ((framed 8).storeCrc 0x13E6) ∧ State.reset.Ready ∧
    ((framed 8).storeCrc 0x13E6).frame.byteAt 2 = some 0xFF ∧ ((framed 8).storeCrc 0x13E6).frame.byteAt 3 = some 0x3C ∧
    [(0xAA : Byte)].length = (9 : Half).toNat / 8 ∧
    (∀ i, i < (9 : Half).toNat / 8 → ((framed 8).storeCrc 0x13E6).frame.byteAt (6 + i) = [(0xAA : Byte)][i]?) ∧
    ((framed 8).storeCrc 0x13E6).frame.byteAt (6 + (9 : Half).toNat / 8) = some 0x55 ∧
    ((framed 8).storeCrc 0x13E6).frame.byteAt 4 = some 0x13 ∧ ((framed 8).storeCrc 0x13E6).frame.byteAt 5 = some 0xE6 :=
  ⟨next_of_after (by decide +kernel), by decide +kernel⟩

theorem witness_WhdrForgetsTheOldAccumulator : (framed 8).Ready ∧ ({ framed 8 with acc := 0 } : State).Ready ∧
    (framed 8).ChecksPass 16 ∧ exec (.whdr 16) (framed 8) = .next (flight 0) ∧
    exec (.whdr 16) { framed 8 with acc := 0 } = .next (flight 0) ∧ blockRun 7 (flight 0) = .next (flight 7) :=
  ⟨by decide, by decide, by decide, rfl, rfl, rfl⟩

theorem witness_WhdrInFlightCompletes : (flight 2).Inv ∧
    (flight 2).running = some { bc := 16, old4 := some 0, old5 := some 0 } ∧ WindowWritten (flight 2).frame 16 :=
  ⟨flight2_inv, by decide, frame40_window 16 (by decide)⟩

theorem witness_ResetValues : (moves (flight 2) [.reset]).port = [.reset] := by decide

theorem framed_reset_inv : (moves (framed 8) [.reset]).Inv where
  lost_err := by decide
  err_cause := by decide
  err_info := by decide
  busy_err := by decide
  idle_busy := by decide
  in_flight := trivial
  frame_wf := by decide
  err_ever := by decide

/-- A reset between the two stores. -/
theorem witness_ResetAbandonsWhdr : (moves (framed 8) [.reset]).Inv ∧ (moves (framed 8) [.reset]).Ready ∧
    (moves (framed 8) [.reset]).ChecksPass 16 ∧
    exec (.whdr 16) (moves (framed 8) [.reset]) = .next (moves (flight 0) [.reset]) ∧
    blockRun 6 (moves (flight 0) [.reset]) = .next (moves (flight 6) [.reset]) :=
  ⟨framed_reset_inv, by decide, by decide, rfl, next_of_after (by decide +kernel)⟩

/-- Every index, and a read of index 0 while `BUSY = 1`, which draws. -/
theorem witness_RegisterPortShowsTheRegisters : State.reset.busy = false ∧
    (moves State.reset [.readReg 7]).port = [.readReg 7] ∧
    (after (step (moves (flight 1) [.readReg 0]))).map (·.draws) = some 1 ∧
    (after (step (moves (flight 1) [.readReg 1]))).map (·.draws) = some 0 := by decide

theorem witness_HostWritesOnlyWhileIdle : (moves (framed 8) [.writeByte 65535 1]).port = [.writeByte 65535 1] ∧
    (moves (framed 8) [.writeByte 65535 1]).op = .idle ∧ (moves (flight 1) [.writeByte 0 1]).op ≠ .idle := by decide

/-- A read while idle, one of offset 6 in flight, and one of offset 4 in flight, which draws: it sees the old byte or the
new one. -/
theorem witness_HostReadsFrameBytes :
    (after (step (moves (framed 8) [.readByte 4]))).map (·.lastRead) = some (some (.byte 4 0)) ∧
    (after (step (moves (flight 1) [.readByte 6]))).map (·.lastRead) = some (some (.byte 6 0xAA)) ∧
    (∃ t, step (moves (flight 1) [.readByte 4]) = .next t) := by
  refine ⟨by decide +kernel, by decide +kernel, ?_⟩
  have hnew : newCrcByte (flight 1).frame { bc := 16, old4 := some 0, old5 := some 0 } 4 = some 0xF2 := by decide +kernel
  have h : (flight 1).byteSeen 4 = if Config.busySeesNew 0 then some 0xF2 else some 0 := by
    have : (flight 1).byteSeen 4 = if Config.busySeesNew 0 then
        (newCrcByte (flight 1).frame { bc := 16, old4 := some 0, old5 := some 0 } 4).or (some 0) else some 0 := rfl
    rw [this, hnew]
    rfl
  have hstep : step (moves (flight 1) [.readByte 4]) = hostReadByte 4 (flight 1) := rfl
  rw [hstep, hostReadByte, h]
  cases Config.busySeesNew 0 <;> exact ⟨_, rfl⟩

theorem witness_StepKeepsTheInvariant : (flight 2).Inv ∧ step (flight 2) = .next (flight 3) := ⟨flight2_inv, rfl⟩

theorem witness_StepKeepsTheFrameCanonical : (flight 5).frame.wf = true ∧ step (flight 5) = .next (flight 6) :=
  ⟨by decide, rfl⟩

/-- A command accepted, and one that waits. -/
theorem witness_OperatingStates : State.reset.Inv ∧ (flight 2).Inv ∧
    (present State.reset 0x40000008).map (·.port) = some [] ∧
    (present (flight 2) 0x40000008).map (·.port) = some [.command 0x40000008] := ⟨reset_inv, flight2_inv, by decide⟩

/-- A micro-step's turn while FAULTED, with no move of the host's. -/
theorem witness_FaultedBlockWritesNothing : faulted.Inv ∧ State.GoneWrong faulted ∧ step faulted = .next faulted :=
  ⟨faulted_inv, .inl rfl, rfl⟩

theorem witness_EndOfRunIsStable : (framed 8).Inv ∧ (framed 8).RunOver := ⟨framed_inv 8, by decide⟩

/-- Each of the three causes is raised. -/
theorem witness_FaultEntryWritesNothingElse :
    (present State.reset 0x00000000).map (fun t => (t.err, t.cause)) = some (true, .illegalCommand) ∧
    (present { framed 8 with params := { bitcntMax := 0 } } 0x30000001).map (fun t => (t.err, t.cause)) =
      some (true, .invalidBitCount) ∧
    (present State.reset 0x30000000).map (fun t => (t.err, t.cause)) = some (true, .invalidBounds) ∧
    State.reset.err = false := by decide

/-- READY and FAULTED, each with `BUSY = 0`. -/
theorem witness_AcceptFollowsThePseudocode : State.reset.busy = false ∧ State.reset.err = false ∧
    faulted.busy = false ∧ faulted.err = true := by decide

theorem witness_LengthWrittenOnlyBySetlenAndReset : (present State.reset 0x40000008).map (·.len) = some 8 ∧
    (after (step (moves (framed 8) [.reset]))).map (·.len) = some 0 := by decide

theorem witness_AccumulatorWrittenOnlyByItsCommands : (present State.reset 0x1000ABCD).map (·.acc) = some 0xABCD ∧
    (after (step (flight 2))).map (·.acc) = some 0x09F3 ∧ (flight 2).acc ≠ 0x09F3 := by
  decide +kernel

theorem witness_FrameWrittenOnlyByHostAndCrcStores :
    (after (step (moves (framed 8) [.writeByte 6 1]))).map (·.frame.byteAt 6) = some (some 1) ∧
    (after (step (flight 5))).map (·.frame.byteAt 4) = some (some 0xF2) ∧ (flight 5).frame.byteAt 4 = some 0 := by
  decide +kernel

theorem witness_ParameterIsFixed : (present State.reset 0x40000008).isSome = true := by decide

end Sys2Proof.Tests
end

/-! ## Reset: the values of R24, at power-up and at the reset input -/

namespace Sys2Proof.Machine

/-- "No fault recorded" is code 0 (R121). -/
@[simp] theorem Cause.code_none : Cause.none.code = 0 := rfl

/-- The turn of the reset input (R140). -/
theorem step_of_port_reset {s : State} {rest : List HostMove} (hp : s.port = .reset :: rest) :
    step s = .next (s.setPort rest).applyReset := by
  rw [step, hp]

/-- The power-up state is what the reset input makes of it, so R24 speaks of one set of values. -/
theorem State.applyReset_reset : State.reset.applyReset = State.reset := rfl

/-- R24, for the reset input in whatever state it arrives. -/
theorem State.applyReset_registers (s : State) :
    s.applyReset.acc = 0xFFFF ∧ s.applyReset.len = 0 ∧ s.applyReset.busy = false ∧ s.applyReset.err = false ∧
      s.applyReset.lost = false ∧ s.applyReset.cause.code = 0 ∧ s.applyReset.info = 0 ∧ s.applyReset.op = .idle := by
  simp

/-- Settles O45: the reset input writes the values of R24 in every state, and the power-up state has them since the
reset input leaves it as it is. -/
theorem resetValues : Obligations.ResetValues := by
  unfold Obligations.ResetValues
  constructor
  · have h := State.applyReset_registers State.reset
    rwa [State.applyReset_reset] at h
  · intro s rest hp
    refine ⟨_, step_of_port_reset hp, ?_⟩
    obtain ⟨hacc, hlen, hbusy, herr, hlost, hcause, hinfo, hop⟩ := State.applyReset_registers (s.setPort rest)
    exact ⟨hacc, hlen, hbusy, herr, hlost, hcause, hinfo, hop, by simp⟩

end Sys2Proof.Machine

/-! ## Encoding: the decoder's branches, the opcode table's rows and the illegal words (R50 to R54) -/

namespace Sys2Proof

variable {w : Word} {i : Instr} {d : Except Illegal Instr}

/-! ### The decoder, one equation per value of `op` -/

theorem decode_of_zField_ne_zero (hz : zField w ≠ 0) : decode w = .error .reservedField := by
  rw [decode, if_pos hz]

theorem decode_of_opField_one (hz : zField w = 0) (hop : opField w = 1) :
    decode w = withoutCount w (.ok (.ldacc (immField w))) := by
  simp [decode, hz, hop]

theorem decode_of_opField_two (hz : zField w = 0) (hop : opField w = 2) : decode w = decodeUpd w := by
  simp [decode, hz, hop]

theorem decode_of_opField_three (hz : zField w = 0) (hop : opField w = 3) :
    decode w = withoutCount w (.ok (.whdr (immField w))) := by
  simp [decode, hz, hop]

theorem decode_of_opField_four (hz : zField w = 0) (hop : opField w = 4) :
    decode w = withoutCount w (.ok (.setlen (immField w))) := by
  simp [decode, hz, hop]

theorem decode_of_opField_five (hz : zField w = 0) (hop : opField w = 5) :
    decode w = withoutCount w (decodeClrerr w) := by
  simp [decode, hz, hop]

/-- The values of `op` that are no command (R54 (b)). -/
abbrev ReservedOpcode (op : BitVec 4) : Prop := op = 0 ∨ 6 ≤ op.toNat

theorem decode_of_reservedOpcode (hz : zField w = 0) (hop : ReservedOpcode (opField w)) :
    decode w = .error .reservedOpcode := by
  have hne : ∀ op : BitVec 4, ReservedOpcode op → op ≠ 1 ∧ op ≠ 2 ∧ op ≠ 3 ∧ op ≠ 4 ∧ op ≠ 5 := by decide
  obtain ⟨h1, h2, h3, h4, h5⟩ := hne _ hop
  rw [decode, if_neg (not_not.mpr hz), if_neg h1, if_neg h2, if_neg h3, if_neg h4, if_neg h5]

theorem opcode_cases (op : BitVec 4) :
    ReservedOpcode op ∨ op = 1 ∨ op = 2 ∨ op = 3 ∨ op = 4 ∨ op = 5 := by
  decide +revert

/-! ### The decoder's three checks -/

theorem withoutCount_eq_ok : withoutCount w d = .ok i ↔ nField w = 0 ∧ d = .ok i := by
  unfold withoutCount
  split <;> simp_all

theorem withoutCount_illegal :
    (∃ e, withoutCount w d = .error e) ↔ nField w ≠ 0 ∨ ∃ e, d = .error e := by
  unfold withoutCount
  split <;> simp_all

theorem decodeUpd_eq_ok :
    decodeUpd w = .ok i ↔ nField w ≤ 8 ∧ immHi w = 0 ∧ updOf (nField w) (immLo w) = i := by
  unfold decodeUpd
  split
  · split <;> simp_all
  · simp_all

theorem decodeUpd_illegal : (∃ e, decodeUpd w = .error e) ↔ 9 ≤ (nField w).toNat ∨ immHi w ≠ 0 := by
  have hn : 9 ≤ (nField w).toNat ↔ ¬ nField w ≤ 8 := by bv_omega
  rw [hn]
  unfold decodeUpd
  split
  · split <;> simp_all
  · simp_all

theorem decodeClrerr_eq_ok : decodeClrerr w = .ok i ↔ immField w = 0 ∧ .clrerr = i := by
  unfold decodeClrerr
  split <;> simp_all

theorem decodeClrerr_illegal : (∃ e, decodeClrerr w = .error e) ↔ immField w ≠ 0 := by
  unfold decodeClrerr
  split <;> simp_all

/-! ### What a word is decoded to -/

/-- The fields of a word and the command it is decoded to, one constructor per row of R51. -/
inductive Decoded (w : Word) : Instr → Prop where
  | ldacc (hop : opField w = 1) (hn : nField w = 0) (hz : zField w = 0) : Decoded w (.ldacc (immField w))
  | upd (hop : opField w = 2) (hn : nField w < 8) (hz : zField w = 0) (hi : immHi w = 0) :
      Decoded w (.upd ((nField w).setWidth 3) (immLo w))
  | upd8 (hop : opField w = 2) (hn : nField w = 8) (hz : zField w = 0) (hi : immHi w = 0) :
      Decoded w (.upd8 (immLo w))
  | whdr (hop : opField w = 3) (hn : nField w = 0) (hz : zField w = 0) : Decoded w (.whdr (immField w))
  | setlen (hop : opField w = 4) (hn : nField w = 0) (hz : zField w = 0) : Decoded w (.setlen (immField w))
  | clrerr (hop : opField w = 5) (hn : nField w = 0) (hz : zField w = 0) (hi : immField w = 0) : Decoded w .clrerr

theorem updOf_eight (b : Byte) : updOf 8 b = .upd8 b := rfl

theorem updOf_of_lt {n : BitVec 4} (hn : n < 8) (b : Byte) : updOf n b = .upd (n.setWidth 3) b := by
  have h8 : n ≠ 8 := by bv_omega
  rw [updOf, if_neg h8]

theorem Decoded.of_decodeUpd (hz : zField w = 0) (hop : opField w = 2) (h : decodeUpd w = .ok i) : Decoded w i := by
  obtain ⟨hn, hi, rfl⟩ := decodeUpd_eq_ok.mp h
  obtain hlt | h8 : nField w < 8 ∨ nField w = 8 := by bv_omega
  · rw [updOf_of_lt hlt]
    exact .upd hop hlt hz hi
  · rw [h8, updOf_eight]
    exact .upd8 hop h8 hz hi

theorem Decoded.of_decode (h : decode w = .ok i) : Decoded w i := by
  by_cases hz : zField w = 0
  case neg => simp [decode_of_zField_ne_zero hz] at h
  obtain hop | hop | hop | hop | hop | hop := opcode_cases (opField w)
  · simp [decode_of_reservedOpcode hz hop] at h
  · rw [decode_of_opField_one hz hop, withoutCount_eq_ok] at h
    obtain ⟨hn, ⟨⟩⟩ := h
    exact .ldacc hop hn hz
  · rw [decode_of_opField_two hz hop] at h
    exact .of_decodeUpd hz hop h
  · rw [decode_of_opField_three hz hop, withoutCount_eq_ok] at h
    obtain ⟨hn, ⟨⟩⟩ := h
    exact .whdr hop hn hz
  · rw [decode_of_opField_four hz hop, withoutCount_eq_ok] at h
    obtain ⟨hn, ⟨⟩⟩ := h
    exact .setlen hop hn hz
  · rw [decode_of_opField_five hz hop, withoutCount_eq_ok, decodeClrerr_eq_ok] at h
    obtain ⟨hn, hi, rfl⟩ := h
    exact .clrerr hop hn hz hi

theorem Decoded.decode_eq_ok (h : Decoded w i) : decode w = .ok i := by
  cases h with
  | ldacc hop hn hz => rw [decode_of_opField_one hz hop, withoutCount_eq_ok]; exact ⟨hn, rfl⟩
  | upd hop hn hz hi =>
    rw [decode_of_opField_two hz hop, decodeUpd_eq_ok]
    exact ⟨BitVec.le_of_lt hn, hi, updOf_of_lt hn _⟩
  | upd8 hop hn hz hi =>
    rw [decode_of_opField_two hz hop, decodeUpd_eq_ok, hn]
    exact ⟨BitVec.le_refl 8, hi, updOf_eight _⟩
  | whdr hop hn hz => rw [decode_of_opField_three hz hop, withoutCount_eq_ok]; exact ⟨hn, rfl⟩
  | setlen hop hn hz => rw [decode_of_opField_four hz hop, withoutCount_eq_ok]; exact ⟨hn, rfl⟩
  | clrerr hop hn hz hi =>
    rw [decode_of_opField_five hz hop, withoutCount_eq_ok, decodeClrerr_eq_ok]
    exact ⟨hn, hi, rfl⟩

theorem decode_eq_ok_iff : decode w = .ok i ↔ Decoded w i := ⟨.of_decode, Decoded.decode_eq_ok⟩

/-! ### The rows of the opcode table, field by field -/

/-- Two words are equal when their fields are, `imm` taken as its two bytes (R50, R52). -/
theorem word_eq_iff_fields {w w' : Word} : w = w' ↔
    opField w = opField w' ∧ nField w = nField w' ∧ zField w = zField w' ∧ immHi w = immHi w' ∧ immLo w = immLo w' := by
  constructor
  · rintro rfl
    exact ⟨rfl, rfl, rfl, rfl, rfl⟩
  · rintro ⟨hop, hn, hz, hhi, hlo⟩
    rw [← assemble_fields w, ← assemble_fields w', immField_eq w, immField_eq w', hop, hn, hz, hhi, hlo]

/-- A row selects a word exactly when each field agrees with the row under the mask (R51). -/
theorem Row.selects_iff_fields {r : Row} : r.selects w = true ↔
    opField w &&& opField r.mask = opField r.pattern ∧ nField w &&& nField r.mask = nField r.pattern ∧
      zField w &&& zField r.mask = zField r.pattern ∧ immHi w &&& immHi r.mask = immHi r.pattern ∧
      immLo w &&& immLo r.mask = immLo r.pattern := by
  rw [Row.selects, beq_iff_eq, word_eq_iff_fields]
  simp only [opField, nField, zField, immHi, immLo, BitVec.extractLsb'_and]

theorem immField_eq_zero_iff : immField w = 0 ↔ immHi w = 0 ∧ immLo w = 0 := by
  constructor
  · intro h
    have hw := assemble_fields w
    rw [h] at hw
    rw [← hw]
    exact ⟨immHi_assemble _ _ _ 0, immLo_assemble _ _ _ 0⟩
  · rintro ⟨hhi, hlo⟩
    rw [immField_eq, hhi, hlo]
    rfl

/-- A row with the mask of a 16-bit operand fixes `op` and leaves `n` and `z` no value but 0. -/
theorem Row.selects_iff_of_imm {r : Row} (op : BitVec 4) (hm : r.mask = 0xFFFF0000)
    (hp : r.pattern = assemble op 0 0 0) :
    r.selects w = true ↔ opField w = op ∧ nField w = 0 ∧ zField w = 0 := by
  rw [selects_iff_fields, hm, hp, opField_assemble, nField_assemble, zField_assemble]
  have hhi : immHi (assemble op 0 0 0) = 0 := immHi_assemble op 0 0 0
  have hlo : immLo (assemble op 0 0 0) = 0 := immLo_assemble op 0 0 0
  rw [hhi, hlo]
  change opField w &&& BitVec.allOnes 4 = op ∧ nField w &&& BitVec.allOnes 4 = 0 ∧
    zField w &&& BitVec.allOnes 8 = 0 ∧ immHi w &&& 0#8 = 0#8 ∧ immLo w &&& 0#8 = 0#8 ↔ _
  simp only [BitVec.and_allOnes, BitVec.and_zero, and_true]

theorem Row.ldacc_selects_iff : Row.ldacc.selects w = true ↔ opField w = 1 ∧ nField w = 0 ∧ zField w = 0 :=
  selects_iff_of_imm 1 rfl rfl

theorem Row.whdr_selects_iff : Row.whdr.selects w = true ↔ opField w = 3 ∧ nField w = 0 ∧ zField w = 0 :=
  selects_iff_of_imm 3 rfl rfl

theorem Row.setlen_selects_iff : Row.setlen.selects w = true ↔ opField w = 4 ∧ nField w = 0 ∧ zField w = 0 :=
  selects_iff_of_imm 4 rfl rfl

theorem Row.upd_selects_iff :
    Row.upd.selects w = true ↔ opField w = 2 ∧ nField w < 8 ∧ zField w = 0 ∧ immHi w = 0 := by
  have hn : ∀ n : BitVec 4, n &&& 8 = 0 ↔ n < 8 := by decide
  rw [selects_iff_fields, ← hn]
  change opField w &&& BitVec.allOnes 4 = 2 ∧ nField w &&& 8 = 0 ∧ zField w &&& BitVec.allOnes 8 = 0 ∧
    immHi w &&& BitVec.allOnes 8 = 0 ∧ immLo w &&& 0#8 = 0#8 ↔ _
  simp only [BitVec.and_allOnes, BitVec.and_zero, and_true]

theorem Row.upd8_selects_iff :
    Row.upd8.selects w = true ↔ opField w = 2 ∧ nField w = 8 ∧ zField w = 0 ∧ immHi w = 0 := by
  rw [selects_iff_fields]
  change opField w &&& BitVec.allOnes 4 = 2 ∧ nField w &&& BitVec.allOnes 4 = 8 ∧
    zField w &&& BitVec.allOnes 8 = 0 ∧ immHi w &&& BitVec.allOnes 8 = 0 ∧ immLo w &&& 0#8 = 0#8 ↔ _
  simp only [BitVec.and_allOnes, BitVec.and_zero, and_true]

theorem Row.clrerr_selects_iff :
    Row.clrerr.selects w = true ↔ opField w = 5 ∧ nField w = 0 ∧ zField w = 0 ∧ immField w = 0 := by
  rw [selects_iff_fields, immField_eq_zero_iff]
  change opField w &&& BitVec.allOnes 4 = 5 ∧ nField w &&& BitVec.allOnes 4 = 0 ∧
    zField w &&& BitVec.allOnes 8 = 0 ∧ immHi w &&& BitVec.allOnes 8 = 0 ∧ immLo w &&& BitVec.allOnes 8 = 0 ↔ _
  simp only [BitVec.and_allOnes]

/-! ### The rows select exactly the commands (R51) -/

theorem Instr.row_mem_opcodeRows (i : Instr) : i.row ∈ opcodeRows := by
  cases i <;> simp [Instr.row, opcodeRows]

theorem Decoded.row_selects (h : Decoded w i) : i.row.selects w = true := by
  cases h with
  | ldacc hop hn hz => exact Row.ldacc_selects_iff.mpr ⟨hop, hn, hz⟩
  | upd hop hn hz hi => exact Row.upd_selects_iff.mpr ⟨hop, hn, hz, hi⟩
  | upd8 hop hn hz hi => exact Row.upd8_selects_iff.mpr ⟨hop, hn, hz, hi⟩
  | whdr hop hn hz => exact Row.whdr_selects_iff.mpr ⟨hop, hn, hz⟩
  | setlen hop hn hz => exact Row.setlen_selects_iff.mpr ⟨hop, hn, hz⟩
  | clrerr hop hn hz hi => exact Row.clrerr_selects_iff.mpr ⟨hop, hn, hz, hi⟩

theorem Row.exists_decoded {r : Row} (hr : r ∈ opcodeRows) (h : r.selects w = true) :
    ∃ i, Decoded w i ∧ i.row = r := by
  simp only [opcodeRows, List.mem_cons, List.not_mem_nil, or_false] at hr
  obtain rfl | rfl | rfl | rfl | rfl | rfl := hr
  · obtain ⟨hop, hn, hz⟩ := ldacc_selects_iff.mp h
    exact ⟨_, .ldacc hop hn hz, rfl⟩
  · obtain ⟨hop, hn, hz, hi⟩ := upd_selects_iff.mp h
    exact ⟨_, .upd hop hn hz hi, rfl⟩
  · obtain ⟨hop, hn, hz, hi⟩ := upd8_selects_iff.mp h
    exact ⟨_, .upd8 hop hn hz hi, rfl⟩
  · obtain ⟨hop, hn, hz⟩ := whdr_selects_iff.mp h
    exact ⟨_, .whdr hop hn hz, rfl⟩
  · obtain ⟨hop, hn, hz⟩ := setlen_selects_iff.mp h
    exact ⟨_, .setlen hop hn hz, rfl⟩
  · obtain ⟨hop, hn, hz, hi⟩ := clrerr_selects_iff.mp h
    exact ⟨_, .clrerr hop hn hz hi, rfl⟩

/-- A word is the command of a row exactly when the row selects it (R51). -/
theorem Row.selects_iff_decode {r : Row} (hr : r ∈ opcodeRows) :
    r.selects w = true ↔ ∃ i, decode w = .ok i ∧ i.row = r := by
  simp only [decode_eq_ok_iff]
  constructor
  · exact exists_decoded hr
  · rintro ⟨i, hi, rfl⟩
    exact hi.row_selects

/-- The rows are disjoint since a word is decoded to one command (R51). -/
theorem Row.eq_of_selects {r r' : Row} (hr : r ∈ opcodeRows) (hr' : r' ∈ opcodeRows) (h : r.selects w = true)
    (h' : r'.selects w = true) : r = r' := by
  obtain ⟨i, hi, rfl⟩ := (selects_iff_decode hr).mp h
  obtain ⟨i', hi', rfl⟩ := (selects_iff_decode hr').mp h'
  rw [Except.ok.inj (hi.symm.trans hi')]

/-- A word that no row selects is illegal (R51): what it would be decoded to has a row that selects it. -/
theorem illegal_of_no_row (h : ∀ r ∈ opcodeRows, r.selects w = false) : ∃ e, decode w = .error e := by
  cases hd : decode w with
  | error e => exact ⟨e, rfl⟩
  | ok i =>
    have hsel := (Decoded.of_decode hd).row_selects
    rw [h i.row i.row_mem_opcodeRows] at hsel
    cases hsel

/-- Settles O3: each row's mask and match fix the fields that the decoder tests for the row's command. -/
theorem opcodeTableSelectsCommands : Obligations.OpcodeTableSelectsCommands := by
  unfold Obligations.OpcodeTableSelectsCommands
  intro w
  exact ⟨fun _ hr => Row.selects_iff_decode hr, fun _ hr _ hr' => Row.eq_of_selects hr hr', illegal_of_no_row⟩

/-! ### The illegal words (R54) -/

/-- The clauses (a) to (f) of R54. -/
theorem decode_illegal_iff : (∃ e, decode w = .error e) ↔
    zField w ≠ 0 ∨ ReservedOpcode (opField w) ∨
    ((opField w = 1 ∨ opField w = 3 ∨ opField w = 4 ∨ opField w = 5) ∧ nField w ≠ 0) ∨
    (opField w = 2 ∧ 9 ≤ (nField w).toNat) ∨ (opField w = 2 ∧ immHi w ≠ 0) ∨ (opField w = 5 ∧ immField w ≠ 0) := by
  by_cases hz : zField w = 0
  case neg => exact ⟨fun _ => .inl hz, fun _ => ⟨_, decode_of_zField_ne_zero hz⟩⟩
  obtain hop | hop | hop | hop | hop | hop := opcode_cases (opField w)
  · simp [decode_of_reservedOpcode hz hop, hop]
  · rw [decode_of_opField_one hz hop, withoutCount_illegal]
    simp [hz, hop]
  · rw [decode_of_opField_two hz hop, decodeUpd_illegal]
    simp [hz, hop]
  · rw [decode_of_opField_three hz hop, withoutCount_illegal]
    simp [hz, hop]
  · rw [decode_of_opField_four hz hop, withoutCount_illegal]
    simp [hz, hop]
  · rw [decode_of_opField_five hz hop, withoutCount_illegal, decodeClrerr_illegal]
    simp [hz, hop]

end Sys2Proof

namespace Sys2Proof.Machine

/-- The acceptance of an illegal word is its rejection (R131). -/
theorem acceptWord_of_illegal {w : Word} {e : Illegal} (h : decode w = .error e) (s : State) :
    acceptWord w s = illegalCommand w s := by
  rw [acceptWord, h]

/-- Settles O4: the decoder fails exactly in the clauses of R54, and the rejected word is offered to the block as every
command is. -/
theorem illegalWordsExactly : Obligations.IllegalWordsExactly := by
  unfold Obligations.IllegalWordsExactly
  refine ⟨fun _ => decode_illegal_iff, ⟨.reservedOpcode, by decide⟩, ⟨.reservedField, by decide⟩, fun w e s he => ?_⟩
  rw [acceptWord_of_illegal he]
  constructor
  · rintro ⟨hb, herr⟩
    exact State.offer_ready hb herr
  · rintro ⟨hb, herr⟩
    exact State.offer_faulted hb herr

end Sys2Proof.Machine

/-! ## The fold: `update_crc` as a sequence of one-bit folds (R72) -/

namespace Sys2Proof.Machine

/-- A sequence that starts at `acc` and takes one data bit per step, from bit 7 downwards, has its first `n` steps in
common with `update_crc`. -/
theorem foldBits_eq_of_sequence {value : Byte} {acc : Half} {a : Nat → Half} (h0 : a 0 = acc) {n : Nat}
    (hstep : ∀ k, 1 ≤ k → k ≤ n → a k = fold1 (a (k - 1)) (value.getLsbD (8 - k))) :
    foldBits value acc n = a n := by
  induction n with
  | zero => exact h0.symm
  | succ n ih =>
    have hprev : foldBits value acc n = a n := ih fun k h1 hk => hstep k h1 (by omega)
    have hlast : a (n + 1) = fold1 (a n) (value.getLsbD (8 - (n + 1))) := hstep (n + 1) (by omega) le_rfl
    rw [foldBits_succ, hprev, hlast]

/-- A fold of `n` bits reads no data bit but the `n` most significant ones. -/
theorem foldBits_congr {v v' : Byte} {n : Nat} (h : ∀ j, 8 - n ≤ j → j < 8 → v.getLsbD j = v'.getLsbD j) (acc : Half) :
    foldBits v acc n = foldBits v' acc n := by
  induction n with
  | zero => rfl
  | succ n ih =>
    have hprev : foldBits v acc n = foldBits v' acc n := ih fun j hj hj8 => h j (by omega) hj8
    have hbit : v.getLsbD (8 - (n + 1)) = v'.getLsbD (8 - (n + 1)) := h _ le_rfl (by omega)
    rw [foldBits_succ, foldBits_succ, hprev, hbit]

/-- Settles O11, by induction on the number of bits folded. -/
theorem updateCrcConsumesTheTopBits : Obligations.UpdateCrcConsumesTheTopBits := by
  unfold Obligations.UpdateCrcConsumesTheTopBits
  exact ⟨fun _ _ _ _ h0 hstep => foldBits_eq_of_sequence h0 hstep, fun _ _ acc _ h => foldBits_congr h acc⟩

end Sys2Proof.Machine

/-! ## `LDACC` and `UPD`: words and effects (R75, R76) -/

namespace Sys2Proof

/-- The word of a command with a 16-bit operand: `n` and `z` are 0 (R52). -/
theorem assemble_imm (op : BitVec 4) (imm : Half) : assemble op 0 0 imm = (op ++ 0#12 ++ imm).setWidth 32 := by
  apply BitVec.eq_of_getLsbD_eq
  intro i hi
  simp only [getLsbD_assemble, BitVec.getLsbD_setWidth, BitVec.getLsbD_append]
  grind

/-- The word of a command with a data byte: `z` and `imm[15:8]` are 0 (R52). -/
theorem assemble_byte (op n : BitVec 4) (b : Byte) :
    assemble op n 0 (b.setWidth 16) = (op ++ n ++ 0#16 ++ b).setWidth 32 := by
  apply BitVec.eq_of_getLsbD_eq
  intro i hi
  simp only [getLsbD_assemble, BitVec.getLsbD_setWidth, BitVec.getLsbD_append]
  grind

/-- The near misses of `LDACC` (R54 (a), (c)). -/
theorem decode_illegal_of_opField_one {w : Word} (hop : opField w = 1) (h : nField w ≠ 0 ∨ zField w ≠ 0) :
    ∃ e, decode w = .error e := by
  rw [decode_illegal_iff]
  obtain hn | hz := h
  · exact .inr (.inr (.inl ⟨.inl hop, hn⟩))
  · exact .inl hz

/-- The near misses of `UPD` (R54 (a), (d), (e)). -/
theorem decode_illegal_of_opField_two {w : Word} (hop : opField w = 2)
    (h : 9 ≤ (nField w).toNat ∨ immHi w ≠ 0 ∨ zField w ≠ 0) : ∃ e, decode w = .error e := by
  rw [decode_illegal_iff]
  obtain hn | hi | hz := h
  · exact .inr (.inr (.inr (.inl ⟨hop, hn⟩)))
  · exact .inr (.inr (.inr (.inr (.inl ⟨hop, hi⟩))))
  · exact .inl hz

end Sys2Proof

namespace Sys2Proof.Machine

/-- What a command other than `CLRERR` does while the block takes commands: its effect in READY, the drop in FAULTED
(R22, R129). -/
theorem State.offer_ready_faulted (s : State) (f : State → State) :
    (s.Ready → s.offer f = .next (f s)) ∧ (s.Faulted → s.offer f = .next s.dropCommand) :=
  ⟨fun ⟨hb, he⟩ => offer_ready hb he, fun ⟨hb, he⟩ => offer_faulted hb he⟩

/-! Each command of the family is offered to the block with its effect on `ACC`. -/

theorem exec_ldacc (v : Half) (s : State) : exec (.ldacc v) s = s.offer (·.setAcc v) := rfl

theorem exec_upd (n : BitVec 3) (b : Byte) (s : State) :
    exec (.upd n b) s = s.offer fun s => s.setAcc (updateCrc b s.acc (updCount n)) := rfl

theorem exec_upd8 (b : Byte) (s : State) : exec (.upd8 b) s = s.offer fun s => s.setAcc (updateCrc b s.acc 8) := rfl

/-- An illegal word accepted while READY is a fault with cause 1 (R122). -/
theorem acceptWord_of_illegal_of_ready {w : Word} {s : State} (h : ∃ e, decode w = .error e) (hs : s.Ready) :
    acceptWord w s = .next (s.raise .illegalCommand w) := by
  obtain ⟨e, he⟩ := h
  obtain ⟨hb, herr⟩ := hs
  rw [acceptWord_of_illegal he, illegalCommand, State.offer_ready hb herr]

/-- Settles O16: the command is offered to the block with `ACC <- v` for its effect, and the near misses are clauses (a)
and (c) of R54. -/
theorem ldaccLoadsTheAccumulator : Obligations.LdaccLoadsTheAccumulator := by
  unfold Obligations.LdaccLoadsTheAccumulator
  refine ⟨fun v s => ⟨assemble_imm 1 v, ?_⟩, fun _ => decode_illegal_of_opField_one⟩
  rw [exec_ldacc]
  exact s.offer_ready_faulted _

/-- Settles O17: both rows are offered to the block with the fold of their bits for their effect, and the near misses are
clauses (a), (d) and (e) of R54, rejected as R122 says. -/
theorem updFoldsTheTopBits : Obligations.UpdFoldsTheTopBits := by
  unfold Obligations.UpdFoldsTheTopBits
  refine ⟨fun n b s => ⟨assemble_byte 2 (n.setWidth 4) b, ?_⟩, fun b s => ⟨assemble_byte 2 8 b, ?_⟩,
    fun w s hop h => ?_⟩
  · rw [exec_upd]
    exact s.offer_ready_faulted _
  · rw [exec_upd8]
    exact s.offer_ready_faulted _
  · have hill := decode_illegal_of_opField_two hop h
    exact ⟨hill, acceptWord_of_illegal_of_ready hill⟩

end Sys2Proof.Machine

/-! ## `WHDR`: the acceptance and the micro-steps (R92, R97 to R102) -/

namespace Sys2Proof

/-- A `WHDR` has no other word than its encoding, so `INFO` holds the word that was presented (R16, R52). -/
theorem encode_whdr_of_decode {w : Word} {bc : Half} (h : decode w = .ok (.whdr bc)) : encode (.whdr bc) = w := by
  cases Decoded.of_decode h with
  | whdr hop hn hz =>
    have hw := assemble_fields w
    rwa [hop, hn, hz] at hw

end Sys2Proof

namespace Sys2Proof.Machine

variable {s : State} {bc : Half}

/-! ### The acceptance -/

theorem acceptWord_of_decode {w : Word} {i : Instr} (h : decode w = .ok i) (s : State) : acceptWord w s = exec i s := by
  rw [acceptWord, h]

/-- The turn of a host that presents a command to a block that is not busy (R19). -/
theorem step_of_port_command {w : Word} {rest : List HostMove} (hp : s.port = .command w :: rest)
    (hb : s.busy = false) : step s = acceptWord w (s.setPort rest) := by
  rw [step, hp]
  simp [hb]

theorem exec_whdr (bc : Half) (s : State) : exec (.whdr bc) s = s.offer (·.acceptWhdr bc) := rfl

/-- A READY block runs the checks of `WHDR` when it executes it (R92). -/
theorem exec_whdr_of_ready (hs : s.Ready) (bc : Half) : exec (.whdr bc) s = .next (s.acceptWhdr bc) := by
  obtain ⟨hb, herr⟩ := hs
  rw [exec_whdr, State.offer_ready hb herr]

theorem step_whdr_of_ready {w : Word} {rest : List HostMove} (hp : s.port = .command w :: rest) (hs : s.Ready)
    (hd : decode w = .ok (.whdr bc)) : step s = .next ((s.setPort rest).acceptWhdr bc) := by
  have hs' : (s.setPort rest).Ready := hs
  rw [step_of_port_command hp hs.1, acceptWord_of_decode hd, exec_whdr_of_ready hs']

/-- Check 1 of R92 fails. -/
theorem State.acceptWhdr_of_bitcntMax_lt (h : s.params.bitcntMax.toNat < bc.toNat) :
    s.acceptWhdr bc = s.raise .invalidBitCount (encode (.whdr bc)) := by
  rw [acceptWhdr, if_pos h]

/-- Check 1 of R92 passes and check 2 fails. -/
theorem State.acceptWhdr_of_len_lt (hbc : bc.toNat ≤ s.params.bitcntMax.toNat) (hlen : s.len.toNat < need bc) :
    s.acceptWhdr bc = s.raise .invalidBounds (encode (.whdr bc)) := by
  rw [acceptWhdr, if_neg (Nat.not_lt.mpr hbc), if_pos hlen]

theorem State.acceptWhdr_of_checksPass (h : s.ChecksPass bc) : s.acceptWhdr bc = s.beginWhdr bc := by
  obtain ⟨hbc, hlen⟩ := h
  rw [acceptWhdr, if_neg (Nat.not_lt.mpr hbc), if_neg (Nat.not_lt.mpr hlen)]

theorem not_bitcntMax_default_lt (bc : Half) : ¬ Params.default.bitcntMax.toNat < bc.toNat := by
  have hmax : Params.default.bitcntMax.toNat = 65535 := rfl
  omega

/-- Settles O23: the step of a presented `WHDR` runs the two checks in their order, and the word that a failed check
records is the presented one. -/
theorem whdrChecksInOrder : Obligations.WhdrChecksInOrder := by
  unfold Obligations.WhdrChecksInOrder
  refine ⟨fun s w bc rest hp hs hd => ?_, not_bitcntMax_default_lt⟩
  rw [step_whdr_of_ready hp hs hd]
  constructor
  · intro hbc
    rw [State.acceptWhdr_of_bitcntMax_lt (s := s.setPort rest) hbc, encode_whdr_of_decode hd]
    rfl
  · intro hbc hlen
    rw [State.acceptWhdr_of_len_lt (s := s.setPort rest) hbc hlen, encode_whdr_of_decode hd]
    rfl

/-- Settles O27: with both checks passed the next state is that of `State.beginWhdr`. -/
theorem whdrAccepted : Obligations.WhdrAccepted := by
  unfold Obligations.WhdrAccepted
  intro s bc hs _ hpass
  refine ⟨s.beginWhdr bc, ?_, by simp⟩
  rw [exec_whdr_of_ready hs, State.acceptWhdr_of_checksPass hpass]

/-! ### The micro-steps that read, one equation per value of `OP` -/

theorem blockStep_of_hdr2 (hop : s.op = .hdr2 bc) : blockStep s = s.foldFrom hdrOffA 8 (.hdr3 bc) := by
  rw [blockStep, hop]
  rfl

theorem blockStep_of_hdr3 (hop : s.op = .hdr3 bc) : blockStep s = s.foldFrom hdrOffB 8 (.body payloadOff bc) := by
  rw [blockStep, hop]
  rfl

theorem blockStep_of_body {ptr rem : Half} (hop : s.op = .body ptr rem) : blockStep s = stepBody ptr rem s := by
  rw [blockStep, hop]

/-- R100. -/
theorem stepBody_of_eight_le {ptr rem : Half} (h : 8 ≤ rem.toNat) (s : State) :
    stepBody ptr rem s = s.foldFrom ptr 8 (.body (ptr + 1) (rem - 8)) := by
  rw [stepBody, dif_pos h]

/-- R101 with a partial byte. -/
theorem stepBody_of_partial {ptr rem : Half} {n : Fin 9} (hn : n.val = rem.toNat) (h7 : rem.toNat ≤ 7) (h0 : rem ≠ 0)
    (s : State) : stepBody ptr rem s = s.foldFrom ptr n .wr4 := by
  have hn' : (⟨rem.toNat, by omega⟩ : Fin 9) = n := Fin.ext hn.symm
  rw [stepBody, dif_neg (by omega), if_neg h0, hn']

/-- R101 without a partial byte. -/
theorem stepBody_zero (ptr : Half) (s : State) : stepBody ptr 0 s = .next (s.setOp .wr4) := rfl

/-- Where the byte is written, it is read and folded. -/
theorem State.foldFrom_of_byteAt {off : Half} {v : Byte} (hv : s.frame.byteAt off.toNat = some v) (n : Fin 9) (o : Op) :
    s.foldFrom off n o = .next { s with acc := updateCrc v s.acc n, op := o } := by
  rw [foldFrom, memRead_eq_ok.mpr hv]
  rfl

/-- Settles O29: both header steps are a fold of eight bits, at `HDR_OFF_A` and at `HDR_OFF_B`. -/
theorem headerBytesAreFolded : Obligations.HeaderBytesAreFolded := by
  unfold Obligations.HeaderBytesAreFolded
  constructor
  · intro s bc v hop hv
    rw [blockStep_of_hdr2 hop]
    exact State.foldFrom_of_byteAt hv 8 _
  · intro s bc v hop hv
    rw [blockStep_of_hdr3 hop]
    exact State.foldFrom_of_byteAt hv 8 _

/-- R23 (vii). -/
theorem State.inFlight_body {ptr rem : Half} {r : Running} (h : s.InFlight) (hop : s.op = .body ptr rem)
    (hr : s.running = some r) :
    rem.toNat ≤ r.bc.toNat ∧ (r.bc.toNat - rem.toNat) % 8 = 0 ∧ ptr.toNat = 6 + (r.bc.toNat - rem.toNat) / 8 ∧
      ptr.toNat + ceil8 rem.toNat = need r.bc ∧ need r.bc ≤ s.len.toNat := by
  rwa [InFlight, hop, hr] at h

/-- With fewer than eight bits left, the whole bytes are done: `ptr` is `6 + w` and `rem` is `p` (R101). -/
theorem State.Inv.body_end {ptr rem : Half} {r : Running} (hs : s.Inv) (hop : s.op = .body ptr rem)
    (hr : s.running = some r) (h7 : rem.toNat ≤ 7) :
    ptr.toNat = 6 + r.bc.toNat / 8 ∧ rem.toNat = r.bc.toNat % 8 := by
  obtain ⟨hle, hmod, hptr, -, -⟩ := inFlight_body hs.in_flight hop hr
  omega

/-- Settles O30: the operands at the end of the payload are the invariant's, and the step is a fold of eight bits, a fold
of `rem` bits, or no access. -/
theorem payloadBytesAreFolded : Obligations.PayloadBytesAreFolded := by
  unfold Obligations.PayloadBytesAreFolded
  refine ⟨fun s ptr rem r hs hop hr h7 => hs.body_end hop hr h7, fun s ptr rem hop => ?_⟩
  rw [blockStep_of_body hop]
  refine ⟨fun h8 v hv => ?_, fun n hn h7 h0 v hv => ?_, fun h0 => ?_⟩
  · rw [stepBody_of_eight_le h8]
    exact State.foldFrom_of_byteAt hv 8 _
  · rw [stepBody_of_partial hn h7 h0]
    exact State.foldFrom_of_byteAt hv n _
  · rw [h0]
    exact stepBody_zero ptr s

/-! ### The micro-steps that store -/

theorem blockStep_of_wr4 (hop : s.op = .wr4) : blockStep s = .next (stepWr4 s) := by
  rw [blockStep, hop]

theorem blockStep_of_wr5 (hop : s.op = .wr5) : blockStep s = .next (stepWr5 s) := by
  rw [blockStep, hop]

@[simp] theorem stepWr4_frame (s : State) : (stepWr4 s).frame = s.frame.setByte 4 (crcHi s.acc) := rfl

@[simp] theorem stepWr5_frame (s : State) : (stepWr5 s).frame = s.frame.setByte 5 (crcLo s.acc) := rfl

/-- R102, the high byte: no field changes but the frame and `OP`. -/
theorem stepWr4_eq (s : State) : stepWr4 s = { s with frame := (stepWr4 s).frame, op := .wr5 } := rfl

/-- R102, the low byte: the command is complete. -/
theorem stepWr5_eq (s : State) :
    stepWr5 s = { s with frame := (stepWr5 s).frame, op := .idle, busy := false, running := none } := rfl

/-- Settles O31: each step is one store, and a read after a write finds the byte stored and every other byte as it was. -/
theorem crcBytesAreStored : Obligations.CrcBytesAreStored := by
  unfold Obligations.CrcBytesAreStored
  constructor
  · intro s hop
    refine ⟨stepWr4 s, blockStep_of_wr4 hop, ?_, fun a ha => ?_, stepWr4_eq s⟩
    · rw [stepWr4_frame, Memory.byteAt_setByte_same, crcHi]
    · rw [stepWr4_frame, Memory.byteAt_setByte_other _ _ ha]
  · intro s hop
    refine ⟨stepWr5 s, blockStep_of_wr5 hop, ?_, fun a ha => ?_, stepWr5_eq s⟩
    · rw [stepWr5_frame, Memory.byteAt_setByte_same, crcLo]
    · rw [stepWr5_frame, Memory.byteAt_setByte_other _ _ ha]

end Sys2Proof.Machine

/-! ## `SETLEN` and `CLRERR`: words and effects, and who writes `LEN` (R13, R110, R112) -/

namespace Sys2Proof

variable {w : Word}

/-- The near misses of `SETLEN` (R54 (a), (c)). -/
theorem decode_illegal_of_opField_four (hop : opField w = 4) (h : nField w ≠ 0 ∨ zField w ≠ 0) :
    ∃ e, decode w = .error e := by
  rw [decode_illegal_iff]
  obtain hn | hz := h
  · exact .inr (.inr (.inl ⟨.inr (.inr (.inl hop)), hn⟩))
  · exact .inl hz

/-- The near misses of `CLRERR` (R54 (a), (c), (f)). -/
theorem decode_illegal_of_opField_five (hop : opField w = 5) (h : nField w ≠ 0 ∨ zField w ≠ 0 ∨ immField w ≠ 0) :
    ∃ e, decode w = .error e := by
  rw [decode_illegal_iff]
  obtain hn | hz | hi := h
  · exact .inr (.inr (.inl ⟨.inr (.inr (.inr hop)), hn⟩))
  · exact .inl hz
  · exact .inr (.inr (.inr (.inr (.inr ⟨hop, hi⟩))))

theorem encode_clrerr : encode .clrerr = 0x50000000 := by decide

end Sys2Proof

namespace Sys2Proof.Machine

variable {s t : State}

/-! ### `LEN` (R13) -/

/-- No micro-step writes `LEN`. -/
theorem BlockMove.len_eq (h : BlockMove s t) : t.len = s.len := by
  cases h <;> rfl

/-- Of the accepted commands only `SETLEN`, not dropped, writes `LEN`. -/
theorem ExecMove.len_cases {i : Instr} (h : ExecMove s i t) :
    t.len = s.len ∨ ∃ len, i = .setlen len ∧ s.err = false ∧ t.len = len := by
  cases h with
  | setlen len he => exact .inr ⟨len, rfl, he, rfl⟩
  | _ => exact .inl rfl

/-- A word that is accepted writes `LEN` only where it is the word of a `SETLEN`; a rejected word does not. -/
theorem acceptWord_len_cases {w : Word} (hb : s.busy = false) (h : acceptWord w s = .next t) :
    t.len = s.len ∨ ∃ len, decode w = .ok (.setlen len) ∧ s.Ready ∧ t.len = len := by
  obtain ⟨i, hd, hi⟩ | ⟨e, -, ⟨-, rfl⟩ | ⟨-, rfl⟩⟩ := acceptWord_eq_next hb h
  · obtain hlen | ⟨len, rfl, he, hlen⟩ := hi.len_cases
    · exact .inl hlen
    · exact .inr ⟨len, hd, ⟨hb, he⟩, hlen⟩
  · exact .inl rfl
  · exact .inl rfl

/-- R13: what a step leaves in `LEN`. Only a `SETLEN` accepted while READY and the reset input write it. -/
theorem step_len_cases (h : step s = .next t) :
    t.len = s.len ∨
      (∃ w len rest, s.port = .command w :: rest ∧ decode w = .ok (.setlen len) ∧ s.Ready ∧ t.len = len) ∨
      (∃ rest, s.port = .reset :: rest ∧ t.len = 0) := by
  cases step_eq_next h with
  | block _ hblock => exact .inl (blockStep_eq_next hblock).len_eq
  | pass _ hblock => exact .inl (blockStep_eq_next hblock).len_eq
  | wait _ _ hblock => exact .inl (blockStep_eq_next hblock).len_eq
  | @accept w rest _ hp hb haccept =>
    obtain hlen | ⟨len, hd, hs, hlen⟩ := acceptWord_len_cases (s := s.setPort rest) hb haccept
    · exact .inl hlen
    · exact .inr (.inl ⟨w, len, rest, hp, hd, hs, hlen⟩)
  | @readReg idx rest _ =>
    obtain ⟨r, n, hread⟩ := hostReadReg_eq idx (s.setPort rest)
    rw [hread]
    exact .inl rfl
  | readByte _ hread =>
    obtain ⟨v, n, -, rfl⟩ := hostReadByte_eq_next hread
    exact .inl rfl
  | writeByte _ _ => exact .inl rfl
  | @reset rest hp => exact .inr (.inr ⟨rest, hp, rfl⟩)

/-! ### `SETLEN` -/

theorem exec_setlen (len : Half) (s : State) : exec (.setlen len) s = s.offer (·.setLen len) := rfl

/-- No frame is shorter than 6 bytes, so a `LEN` below 6 fails check 2 for every bit count (R92). -/
theorem six_le_need (bc : Half) : 6 ≤ need bc := Nat.le_add_right 6 _

/-- Settles O18: the command is offered to the block with `LEN <- len` for its effect, the near misses are clauses (a)
and (c) of R54, a `LEN` below 6 is below `need`, and R13 says which steps write `LEN`. -/
theorem setlenSetsTheLength : Obligations.SetlenSetsTheLength := by
  unfold Obligations.SetlenSetsTheLength
  refine ⟨fun len s => ⟨assemble_imm 4 len, ?_⟩, fun _ => decode_illegal_of_opField_four, fun s bc hs hlen hbc => ?_,
    fun s t h => ?_⟩
  · rw [exec_setlen]
    exact s.offer_ready_faulted _
  · have hshort : s.len.toNat < need bc := hlen.trans_le (six_le_need bc)
    exact ⟨_, exec_whdr_of_ready hs bc, by simp [State.acceptWhdr_of_len_lt hbc hshort]⟩
  · obtain hlen | ⟨w, len, rest, hp, hd, -, -⟩ | ⟨rest, hp, -⟩ := step_len_cases h
    · exact .inl hlen
    · exact .inr (.inl ⟨w, len, rest, hp, hd⟩)
    · exact .inr (.inr ⟨rest, hp⟩)

/-! ### `CLRERR` -/

/-- `CLRERR` has its effect whenever it is accepted, READY or FAULTED (R112). -/
theorem exec_clrerr_of_not_busy (hb : s.busy = false) : exec .clrerr s = .next s.clearError := by
  simp [exec, execClrerr, hb]

/-- R23 (ii) to (iv): with no error recorded, the fault registers hold 0 already. -/
theorem State.Inv.fault_registers (hs : s.Inv) (he : s.err = false) :
    s.lost = false ∧ s.cause = .none ∧ s.info = 0 := by
  have hlost : s.lost ≠ true := fun hl => by simp [hs.lost_err hl] at he
  exact ⟨by simpa using hlost, hs.err_cause.mp he, hs.err_info he⟩

/-- With no error recorded there is nothing to clear. -/
theorem State.Inv.clearError_eq (hs : s.Inv) (he : s.err = false) : s.clearError = s := by
  obtain ⟨hlost, hcause, hinfo⟩ := hs.fault_registers he
  cases s
  simp_all [clearError]

/-- An illegal word accepted while FAULTED is dropped (R129). -/
theorem acceptWord_of_illegal_of_faulted {w : Word} (h : ∃ e, decode w = .error e) (hs : s.Faulted) :
    acceptWord w s = .next s.dropCommand := by
  obtain ⟨e, he⟩ := h
  obtain ⟨hb, herr⟩ := hs
  rw [acceptWord_of_illegal he, illegalCommand, State.offer_faulted hb herr]

/-- Settles O19: the command is not offered as the others are but always clears the fault registers, which the invariant
has at 0 while READY; the near misses are clauses (a), (c) and (f) of R54. -/
theorem clrerrReturnsToReady : Obligations.ClrerrReturnsToReady := by
  unfold Obligations.ClrerrReturnsToReady
  refine ⟨encode_clrerr, fun s hb => exec_clrerr_of_not_busy hb, fun s hinv hs => ?_, fun w s hop h => ?_⟩
  · rw [exec_clrerr_of_not_busy hs.1, hinv.clearError_eq hs.2]
  · have hill := decode_illegal_of_opField_five hop h
    exact ⟨hill, acceptWord_of_illegal_of_ready hill, acceptWord_of_illegal_of_faulted hill⟩

end Sys2Proof.Machine

/-! ## Faults: entry, drop and return, for a presented word and over all steps (R120 to R130) -/

namespace Sys2Proof

/-- `CLRERR` has no other word than its encoding (R52). -/
theorem eq_of_decode_clrerr {w : Word} (h : decode w = .ok .clrerr) : w = 0x50000000 := by
  rw [← encode_clrerr]
  cases Decoded.of_decode h with
  | clrerr hop hn hz hi =>
    have hw := assemble_fields w
    rw [hop, hn, hz, hi] at hw
    exact hw.symm

end Sys2Proof

namespace Sys2Proof.Machine

variable {s t : State} {w : Word}

/-! ### An illegal word while READY (R122) -/

/-- Settles O21: the step of a presented word is its acceptance, which is the fault entry with cause 1; the bit counts
above 8 are clause (d) of R54. -/
theorem illegalWordFaults : Obligations.IllegalWordFaults := by
  unfold Obligations.IllegalWordFaults
  constructor
  · intro s w rest e hp hs he
    have hs' : (s.setPort rest).Ready := hs
    rw [step_of_port_command hp hs.1, acceptWord_of_illegal_of_ready ⟨e, he⟩ hs']
    rfl
  · intro w hop hn
    exact decode_illegal_of_opField_two hop (.inl hn)

/-! ### A word while FAULTED (R129) -/

/-- Every command but `CLRERR` is offered to the block with an effect of its own. -/
theorem exec_eq_offer {i : Instr} (hi : i ≠ .clrerr) (s : State) : ∃ f, exec i s = s.offer f := by
  cases i with
  | ldacc v => exact ⟨_, exec_ldacc v s⟩
  | upd n b => exact ⟨_, exec_upd n b s⟩
  | upd8 b => exact ⟨_, exec_upd8 b s⟩
  | whdr bc => exact ⟨_, exec_whdr bc s⟩
  | setlen len => exact ⟨_, exec_setlen len s⟩
  | clrerr => exact absurd rfl hi

/-- While FAULTED every command but `CLRERR` is dropped. -/
theorem exec_of_faulted {i : Instr} (hi : i ≠ .clrerr) (hs : s.Faulted) : exec i s = .next s.dropCommand := by
  obtain ⟨hb, he⟩ := hs
  obtain ⟨f, hf⟩ := exec_eq_offer hi s
  rw [hf, State.offer_faulted hb he]

/-- While FAULTED every word but that of `CLRERR` is dropped, a command or not. -/
theorem acceptWord_of_faulted (hw : w ≠ 0x50000000) (hs : s.Faulted) : acceptWord w s = .next s.dropCommand := by
  cases hd : decode w with
  | error e => exact acceptWord_of_illegal_of_faulted ⟨e, hd⟩ hs
  | ok i =>
    have hi : i ≠ .clrerr := by
      rintro rfl
      exact hw (eq_of_decode_clrerr hd)
    rw [acceptWord_of_decode hd, exec_of_faulted hi hs]

/-- Settles O22: the step of a presented word is its acceptance, which is the drop. -/
theorem commandDroppedWhileFaulted : Obligations.CommandDroppedWhileFaulted := by
  unfold Obligations.CommandDroppedWhileFaulted
  intro s w rest hp hs hw
  have hs' : (s.setPort rest).Faulted := hs
  rw [step_of_port_command hp hs.1, acceptWord_of_faulted hw hs']
  rfl

/-! ### What a step does to the fault record (R126, R128, R129, R140) -/

/-- Nothing of the fault record has changed: `ERR`, `LOST`, `CAUSE`, `INFO` and the ghost flag. -/
structure SameFaults (s t : State) : Prop where
  err : t.err = s.err
  lost : t.lost = s.lost
  cause : t.cause = s.cause
  info : t.info = s.info
  everFaulted : t.everFaulted = s.everFaulted

/-- How the acceptance of the word `w` can write the fault record: fault entry, drop and return. -/
inductive FaultMove (s : State) (w : Word) : State → Prop where
  | raised {c : Cause} (he : s.err = false) (hc : c ≠ .none) : FaultMove s w (s.raise c w)
  | dropped (he : s.err = true) : FaultMove s w s.dropCommand
  | cleared (hw : w = 0x50000000) : FaultMove s w s.clearError

/-- No micro-step writes the fault record. -/
theorem BlockMove.sameFaults (h : BlockMove s t) : SameFaults s t := by
  cases h <;> exact ⟨rfl, rfl, rfl, rfl, rfl⟩

/-- What an accepted command does to the fault record: `INFO` takes the word, the only encoding of a faulting `WHDR`. -/
theorem ExecMove.fault_cases {i : Instr} (h : ExecMove s i t) (hd : decode w = .ok i) :
    SameFaults s t ∨ FaultMove s w t := by
  cases h with
  | dropped he hi => exact .inr (.dropped he)
  | cleared => exact .inr (.cleared (eq_of_decode_clrerr hd))
  | badCount he hc =>
    rw [encode_whdr_of_decode hd]
    exact .inr (.raised he nofun)
  | badBounds he hc hl =>
    rw [encode_whdr_of_decode hd]
    exact .inr (.raised he nofun)
  | _ => exact .inl ⟨rfl, rfl, rfl, rfl, rfl⟩

/-- What the acceptance of a word, a command or not, does to the fault record. -/
theorem acceptWord_fault_cases (hb : s.busy = false) (h : acceptWord w s = .next t) :
    SameFaults s t ∨ FaultMove s w t := by
  obtain ⟨i, hd, hi⟩ | ⟨e, -, ⟨he, rfl⟩ | ⟨he, rfl⟩⟩ := acceptWord_eq_next hb h
  · exact hi.fault_cases hd
  · exact .inr (.dropped he)
  · exact .inr (.raised he nofun)

/-- What a step does to the fault record: only an accepted word and the reset input write it. -/
theorem step_fault_cases (h : step s = .next t) :
    SameFaults s t ∨
      (∃ w rest, s.port = .command w :: rest ∧ s.busy = false ∧ FaultMove (s.setPort rest) w t) ∨
      (∃ rest, s.port = .reset :: rest ∧ t = (s.setPort rest).applyReset) := by
  cases step_eq_next h with
  | block _ hblock => exact .inl (blockStep_eq_next hblock).sameFaults
  | @pass rest _ _ hblock =>
    have hsame : SameFaults (s.setPort rest) t := (blockStep_eq_next hblock).sameFaults
    exact .inl { hsame with }
  | wait _ _ hblock => exact .inl (blockStep_eq_next hblock).sameFaults
  | @accept w rest _ hp hb haccept =>
    obtain hsame | hmove := acceptWord_fault_cases (s := s.setPort rest) hb haccept
    · exact .inl { hsame with }
    · exact .inr (.inl ⟨w, rest, hp, hb, hmove⟩)
  | @readReg idx rest _ =>
    obtain ⟨r, n, hread⟩ := hostReadReg_eq idx (s.setPort rest)
    rw [hread]
    exact .inl ⟨rfl, rfl, rfl, rfl, rfl⟩
  | readByte _ hread =>
    obtain ⟨v, n, -, rfl⟩ := hostReadByte_eq_next hread
    exact .inl ⟨rfl, rfl, rfl, rfl, rfl⟩
  | writeByte _ _ => exact .inl ⟨rfl, rfl, rfl, rfl, rfl⟩
  | @reset rest hp => exact .inr (.inr ⟨rest, hp, rfl⟩)

/-- Settles O24: of the moves that write the fault record only fault entry turns `ERR` from 0 to 1. -/
theorem faultEntryWritesNothingElse : Obligations.FaultEntryWritesNothingElse := by
  unfold Obligations.FaultEntryWritesNothingElse
  intro s t h hs ht
  obtain hsame | ⟨w, rest, hp, hb, hmove⟩ | ⟨rest, -, rfl⟩ := step_fault_cases h
  · simp [hsame.err, hs] at ht
  · cases hmove with
    | @raised c _ hc => exact ⟨w, rest, c, hp, hb, hc, rfl⟩
    | dropped he => simp [hs] at he
    | cleared _ => simp at ht
  · simp at ht

/-- Settles O25: fault entry needs `ERR = 0`, the drop keeps `ERR`, `CAUSE` and `INFO`, both set the ghost flag, and what
clears `ERR` is the word of `CLRERR` or the reset input, which leave that flag. -/
theorem faultStaysUntilClrerrOrReset : Obligations.FaultStaysUntilClrerrOrReset := by
  unfold Obligations.FaultStaysUntilClrerrOrReset
  intro s t h
  obtain hsame | ⟨w, rest, hp, hb, hmove⟩ | ⟨rest, hp, rfl⟩ := step_fault_cases h
  · obtain ⟨herr, hlost, hcause, hinfo, hever⟩ := hsame
    rw [herr, hlost, hcause, hinfo, hever]
    simp +contextual
  · cases hmove with
    | raised he _ =>
      have hs : s.err = false := he
      simp [hs]
    | dropped he =>
      have hs : s.err = true := he
      simp [hs]
    | cleared hw => simp [hp, hb, hw]
  · simp [hp]

end Sys2Proof.Machine

/-! ## A reset that cuts a `WHDR`: what its micro-steps have done so far (R97 to R102, R141) -/

namespace Sys2Proof.Machine

variable {s t u : State} {m : Memory} {bc : Half}

/-! ### The part of the CRC that is still to fold -/

/-- Steps 3 and 4 of R91 with the accumulator `acc`, for `rem` bits from offset `ptr` upwards. -/
def foldPayload (m : Memory) (ptr rem acc : Half) : Except Fault Half :=
  (foldWhole m acc ptr (wholeBytes rem)).bind (foldPartial m (ptr + BitVec.ofNat 16 (wholeBytes rem)) (partialBits rem))

/-- The CRC that the in-flight record `o` leads to from the accumulator `acc`: what steps 1 to 4 of R91 still do. -/
def crcToCome (m : Memory) (o : Op) (acc : Half) : Except Fault Half :=
  match o with
  | .hdr2 bc => (foldByte m hdrOffA 8 acc).bind fun a => (foldByte m hdrOffB 8 a).bind (foldPayload m payloadOff bc)
  | .hdr3 bc => (foldByte m hdrOffB 8 acc).bind (foldPayload m payloadOff bc)
  | .body ptr rem => foldPayload m ptr rem acc
  | .wr4 | .wr5 | .idle => .ok acc

/-- At the acceptance (R97) the CRC to come is the whole of steps 1 to 4 of R91. -/
theorem crcToCome_hdr2_crcInit (m : Memory) (bc : Half) : crcToCome m (.hdr2 bc) crcInit = frameCrc m bc := by
  rw [crcToCome, frameCrc]
  cases foldByte m hdrOffA 8 crcInit with
  | error f => rfl
  | ok a2 =>
    simp only [Except.bind]
    cases foldByte m hdrOffB 8 a2 with
    | error f => rfl
    | ok a3 =>
      simp only [foldPayload]
      cases foldWhole m a3 payloadOff (wholeBytes bc) <;> rfl

theorem foldByte_of_byteAt {off : Half} {v : Byte} (hv : m.byteAt off.toNat = some v) (n : Fin 9) (acc : Half) :
    foldByte m off n acc = .ok (updateCrc v acc n) :=
  foldByte_eq_ok.mpr ⟨v, hv, rfl⟩

theorem crcToCome_hdr2 {v : Byte} (hv : m.byteAt 2 = some v) (acc : Half) :
    crcToCome m (.hdr2 bc) acc = crcToCome m (.hdr3 bc) (updateCrc v acc 8) := by
  rw [crcToCome, foldByte_of_byteAt (off := hdrOffA) hv]
  rfl

theorem crcToCome_hdr3 {v : Byte} (hv : m.byteAt 3 = some v) (acc : Half) :
    crcToCome m (.hdr3 bc) acc = crcToCome m (.body 6 bc) (updateCrc v acc 8) := by
  rw [crcToCome, foldByte_of_byteAt (off := hdrOffB) hv]
  rfl

theorem toNat_sub_eight {rem : Half} (h : 8 ≤ rem.toNat) : (rem - 8).toNat = rem.toNat - 8 :=
  BitVec.toNat_sub_of_le (BitVec.le_def.mpr h)

theorem wholeBytes_of_eight_le {rem : Half} (h : 8 ≤ rem.toNat) : wholeBytes rem = wholeBytes (rem - 8) + 1 := by
  rw [wholeBytes, wholeBytes, toNat_sub_eight h]
  omega

theorem wholeBytes_of_lt_eight {rem : Half} (h : rem.toNat < 8) : wholeBytes rem = 0 := Nat.div_eq_of_lt h

theorem partialBits_sub_eight {rem : Half} (h : 8 ≤ rem.toNat) : partialBits (rem - 8) = partialBits rem := by
  apply Fin.ext
  simp only [partialBits, toNat_sub_eight h]
  omega

/-- R100: a whole byte leaves eight bits fewer to fold, from the next offset. -/
theorem crcToCome_body_whole {ptr rem : Half} {v : Byte} (h : 8 ≤ rem.toNat) (hv : m.byteAt ptr.toNat = some v)
    (acc : Half) :
    crcToCome m (.body ptr rem) acc = crcToCome m (.body (ptr + 1) (rem - 8)) (updateCrc v acc 8) := by
  have hptr : ptr + BitVec.ofNat 16 (wholeBytes (rem - 8) + 1) = ptr + 1 + BitVec.ofNat 16 (wholeBytes (rem - 8)) := by
    rw [BitVec.ofNat_add, BitVec.add_comm (BitVec.ofNat 16 _), ← BitVec.add_assoc]
    rfl
  simp only [crcToCome, foldPayload, wholeBytes_of_eight_le h, partialBits_sub_eight h, hptr, foldWhole,
    foldByte_of_byteAt hv]

/-- R101: the partial byte is the last one to fold. -/
theorem crcToCome_body_partial {ptr rem : Half} {v : Byte} (h0 : rem ≠ 0) (h : rem.toNat < 8)
    (hv : m.byteAt ptr.toNat = some v) (acc : Half) :
    crcToCome m (.body ptr rem) acc = .ok (updateCrc v acc ⟨rem.toNat, by omega⟩) := by
  have hbits : partialBits rem = ⟨rem.toNat, by omega⟩ := Fin.ext (Nat.mod_eq_of_lt h)
  have hpos : partialBits rem ≠ 0 := by
    rw [hbits]
    exact fun hz => h0 (BitVec.eq_of_toNat_eq (Fin.mk.inj hz))
  have hptr : ptr + BitVec.ofNat 16 0 = ptr := BitVec.add_zero ptr
  rw [crcToCome, foldPayload, wholeBytes_of_lt_eight h, hptr, foldWhole_zero, Except.bind, foldPartial, if_neg hpos,
    foldByte_of_byteAt hv, hbits]

/-- R101 without a partial byte: nothing is left to fold. -/
theorem crcToCome_body_zero (ptr acc : Half) : crcToCome m (.body ptr 0) acc = .ok acc := rfl

/-! ### How far a `WHDR` has come -/

/-- What is so in the state `s` while `WHDR bc`, accepted with the frame buffer `m`, is in flight and when it is
complete: nothing is stored and the CRC to come is that of `m`, or its high byte is stored, or both bytes are. -/
inductive WhdrProgress (m : Memory) (bc : Half) (s : State) : Prop where
  | reading (h5 : s.op ≠ .wr5) (hidle : s.op ≠ .idle) (hframe : s.frame = m)
      (hcrc : crcToCome m s.op s.acc = frameCrc m bc)
  | highStored (hop : s.op = .wr5) (hframe : s.frame = m.setByte 4 (crcHi s.acc)) (hcrc : frameCrc m bc = .ok s.acc)
  | bothStored (hop : s.op = .idle) (hframe : s.frame = (m.setByte 4 (crcHi s.acc)).setByte 5 (crcLo s.acc))
      (hcrc : frameCrc m bc = .ok s.acc)

theorem WhdrProgress.beginWhdr (s : State) (bc : Half) : WhdrProgress s.frame bc (s.beginWhdr bc) :=
  .reading nofun nofun rfl (crcToCome_hdr2_crcInit s.frame bc)

/-- A micro-step that stores nothing keeps the CRC to come. -/
theorem WhdrProgress.of_reading (hcrc : crcToCome s.frame s.op s.acc = frameCrc s.frame bc) (h : BlockMove s t)
    (h5 : s.op ≠ .wr5) (hidle : s.op ≠ .idle) : WhdrProgress s.frame bc t := by
  cases h with
  | idle hop => exact absurd hop hidle
  | wr5 hop => exact absurd hop h5
  | hdr2 hop hv =>
    rw [hop, crcToCome_hdr2 hv] at hcrc
    exact .reading nofun nofun rfl hcrc
  | hdr3 hop hv =>
    rw [hop, crcToCome_hdr3 hv] at hcrc
    exact .reading nofun nofun rfl hcrc
  | whole hop hrem hv =>
    rw [hop, crcToCome_body_whole hrem hv] at hcrc
    exact .reading nofun nofun rfl hcrc
  | partialByte hop h0 hrem hv =>
    rw [hop, crcToCome_body_partial h0 hrem hv] at hcrc
    exact .reading nofun nofun rfl hcrc
  | noPartial hop =>
    rw [hop, crcToCome_body_zero] at hcrc
    exact .reading nofun nofun rfl hcrc
  | wr4 hop =>
    rw [hop] at hcrc
    exact .highStored rfl (stepWr4_frame s) hcrc.symm

theorem WhdrProgress.blockStep (hs : WhdrProgress m bc s) (h : blockStep s = .next t) : WhdrProgress m bc t := by
  cases hs with
  | reading h5 hidle hframe hcrc =>
    subst hframe
    exact .of_reading hcrc (blockStep_eq_next h) h5 hidle
  | highStored hop hframe hcrc =>
    rw [blockStep_of_wr5 hop] at h
    cases h
    exact .bothStored rfl (by rw [stepWr5_frame, hframe]; rfl) hcrc
  | bothStored hop hframe hcrc =>
    rw [Machine.blockStep, hop] at h
    cases h
    exact .bothStored hop hframe hcrc

theorem blockRun_succ_eq_next {n : Nat} (h : blockRun (n + 1) s = .next u) :
    ∃ t, blockStep s = .next t ∧ blockRun n t = .next u := by
  rw [blockRun] at h
  split at h
  · next t ht => exact ⟨t, ht, h⟩
  · cases h
  · cases h

theorem WhdrProgress.blockRun {n : Nat} (hs : WhdrProgress m bc s) (h : blockRun n s = .next u) :
    WhdrProgress m bc u := by
  induction n generalizing s with
  | zero =>
    cases h
    exact hs
  | succ n ih =>
    obtain ⟨t, ht, hrun⟩ := blockRun_succ_eq_next h
    exact ih (hs.blockStep ht) hrun

/-- However far the command has come, it has written at most offsets 4 and 5. -/
theorem WhdrProgress.byteAt_other (hs : WhdrProgress m bc s) {a : Nat} (h4 : a ≠ 4) (h5 : a ≠ 5) :
    s.frame.byteAt a = m.byteAt a := by
  cases hs with
  | reading _ _ hframe _ => rw [hframe]
  | highStored _ hframe _ => rw [hframe, Memory.byteAt_setByte_other _ _ h4]
  | bothStored _ hframe _ => rw [hframe, Memory.byteAt_setByte_other _ _ h5, Memory.byteAt_setByte_other _ _ h4]

/-- The three states of offsets 4 and 5 (R141). -/
theorem WhdrProgress.crcBytes (hs : WhdrProgress m bc s) :
    s.frame.byteAt 4 = m.byteAt 4 ∧ s.frame.byteAt 5 = m.byteAt 5 ∨
      ∃ c, frameCrc m bc = .ok c ∧ s.frame.byteAt 4 = some (crcHi c) ∧
        (s.frame.byteAt 5 = m.byteAt 5 ∨ s.frame.byteAt 5 = some (crcLo c)) := by
  have h54 : 5 ≠ 4 := by decide
  cases hs with
  | reading _ _ hframe _ => exact .inl (by simp [hframe])
  | highStored _ hframe hcrc =>
    refine .inr ⟨s.acc, hcrc, ?_, .inl ?_⟩
    · rw [hframe, Memory.byteAt_setByte_same]
    · rw [hframe, Memory.byteAt_setByte_other _ _ h54]
  | bothStored _ hframe hcrc =>
    refine .inr ⟨s.acc, hcrc, ?_, .inr ?_⟩
    · rw [hframe, Memory.byteAt_setByte_other _ _ h54.symm, Memory.byteAt_setByte_same]
    · rw [hframe, Memory.byteAt_setByte_same]

/-- Settles O46: the micro-steps keep `WhdrProgress`, whose cases are the three states of offsets 4 and 5, and the reset
input sets the registers and leaves the frame buffer. -/
theorem resetAbandonsWhdr : Obligations.ResetAbandonsWhdr := by
  unfold Obligations.ResetAbandonsWhdr
  intro s t u bc n rest _ hs hpass hexec hrun hport
  rw [exec_whdr_of_ready hs, State.acceptWhdr_of_checksPass hpass] at hexec
  cases hexec
  have hu : WhdrProgress s.frame bc u := (WhdrProgress.beginWhdr s bc).blockRun hrun
  refine ⟨_, step_of_port_reset hport, rfl, rfl, rfl, rfl, rfl, rfl, rfl, rfl, ?_⟩
  simp only [State.applyReset_frame, State.setPort_frame]
  exact ⟨fun a h4 h5 => hu.byteAt_other h4 h5, hu.crcBytes⟩

end Sys2Proof.Machine

/-! ## Encoding and decoding are inverse, and the number of legal words (R51 to R55, R58) -/

namespace Sys2Proof

variable {w : Word} {i : Instr}

/-- The fields of a command's own word are those of its row, with its operands in them (R52). -/
theorem Decoded.of_encode (i : Instr) : Decoded (encode i) i := by
  cases i with
  | ldacc v =>
    have h := Decoded.ldacc (opField_assemble 1 0 0 v) (nField_assemble 1 0 0 v) (zField_assemble 1 0 0 v)
    rwa [immField_assemble] at h
  | upd n b =>
    have hn : n.setWidth 4 < 8 := by bv_omega
    have hn' : (n.setWidth 4).setWidth 3 = n := by simp
    have h := Decoded.upd (opField_assemble 2 (n.setWidth 4) 0 (b.setWidth 16)) (by rwa [nField_assemble])
      (zField_assemble _ _ _ _) (immHi_assemble _ _ _ b)
    rwa [nField_assemble, immLo_assemble, hn'] at h
  | upd8 b =>
    have h := Decoded.upd8 (opField_assemble 2 8 0 (b.setWidth 16)) (nField_assemble _ _ _ _) (zField_assemble _ _ _ _)
      (immHi_assemble _ _ _ b)
    rwa [immLo_assemble] at h
  | whdr bc =>
    have h := Decoded.whdr (opField_assemble 3 0 0 bc) (nField_assemble 3 0 0 bc) (zField_assemble 3 0 0 bc)
    rwa [immField_assemble] at h
  | setlen len =>
    have h := Decoded.setlen (opField_assemble 4 0 0 len) (nField_assemble 4 0 0 len) (zField_assemble 4 0 0 len)
    rwa [immField_assemble] at h
  | clrerr =>
    exact .clrerr (opField_assemble 5 0 0 0) (nField_assemble 5 0 0 0) (zField_assemble 5 0 0 0)
      (immField_assemble 5 0 0 0)

/-- Settles O1: each command's word has the fields of the command's row, and the decoder reads the operands back from
them. -/
theorem encodeThenDecode : Obligations.EncodeThenDecode := by
  unfold Obligations.EncodeThenDecode
  exact fun i => (Decoded.of_encode i).decode_eq_ok

/-- A data byte with `imm[15:8] = 0` is the whole of `imm` (R52). -/
theorem immField_of_immHi_eq_zero (h : immHi w = 0) : immField w = (immLo w).setWidth 16 := by
  rw [immField_eq, h]
  apply BitVec.eq_of_getLsbD_eq
  intro j hj
  simp only [BitVec.getLsbD_setWidth, BitVec.getLsbD_append]
  grind

/-- The fields that the decoder has tested and read are all the fields of the word. -/
theorem Decoded.encode_eq (h : Decoded w i) : encode i = w := by
  have hw := assemble_fields w
  cases h with
  | ldacc hop hn hz => rwa [hop, hn, hz] at hw
  | upd hop hn hz hi =>
    have hn' : ((nField w).setWidth 3).setWidth 4 = nField w := by bv_omega
    rwa [hop, hz, immField_of_immHi_eq_zero hi, ← hn'] at hw
  | upd8 hop hn hz hi => rwa [hop, hn, hz, immField_of_immHi_eq_zero hi] at hw
  | whdr hop hn hz => rwa [hop, hn, hz] at hw
  | setlen hop hn hz => rwa [hop, hn, hz] at hw
  | clrerr hop hn hz hi => rwa [hop, hn, hz, hi] at hw

/-- Settles O2: the word is assembled from the fields that the decoder has tested and read. -/
theorem decodeThenEncode : Obligations.DecodeThenEncode := by
  unfold Obligations.DecodeThenEncode
  exact fun w i h => (Decoded.of_decode h).encode_eq

/-! ### Counting -/

/-- The commands and the legal words correspond one to one (R51). -/
def legalWordEquiv : Instr ≃ { w : Word // ∃ i, decode w = .ok i } where
  toFun i := ⟨encode i, i, (Decoded.of_encode i).decode_eq_ok⟩
  invFun w := match decode w.val with
    | .ok i => i
    | .error _ => .clrerr
  left_inv i := by simp only [(Decoded.of_encode i).decode_eq_ok]
  right_inv := by
    rintro ⟨w, i, h⟩
    simp only [h, (Decoded.of_decode h).encode_eq]

/-- A command is one of six forms with the operands of the form (R51, R52). -/
def instrEquiv : Instr ≃ Half ⊕ (BitVec 3 × Byte) ⊕ Byte ⊕ Half ⊕ Half ⊕ Unit where
  toFun
    | .ldacc v => .inl v
    | .upd n b => .inr (.inl (n, b))
    | .upd8 b => .inr (.inr (.inl b))
    | .whdr bc => .inr (.inr (.inr (.inl bc)))
    | .setlen len => .inr (.inr (.inr (.inr (.inl len))))
    | .clrerr => .inr (.inr (.inr (.inr (.inr ()))))
  invFun
    | .inl v => .ldacc v
    | .inr (.inl (n, b)) => .upd n b
    | .inr (.inr (.inl b)) => .upd8 b
    | .inr (.inr (.inr (.inl bc))) => .whdr bc
    | .inr (.inr (.inr (.inr (.inl len)))) => .setlen len
    | .inr (.inr (.inr (.inr (.inr ())))) => .clrerr
  left_inv i := by cases i <;> rfl
  right_inv := by rintro (_ | ⟨_, _⟩ | _ | _ | _ | _) <;> rfl

theorem card_bitVec (n : Nat) : Nat.card (BitVec n) = 2 ^ n := by
  rw [Nat.card_congr BitVec.equivFin.toEquiv, Nat.card_fin]

/-- Settles O5: the legal words are as many as the commands, and these are `3 * 2^16 + 2^11 + 2^8 + 1` (R55). -/
theorem legalWordCount : Obligations.LegalWordCount := by
  unfold Obligations.LegalWordCount
  rw [← Nat.card_congr legalWordEquiv, Nat.card_congr instrEquiv]
  simp only [Nat.card_sum, Nat.card_prod, card_bitVec, Nat.card_unique]
  norm_num

/-! ### The worked words -/

/-- Settles O6: the decoder is evaluated on the twenty words that R58 lists. -/
theorem workedEncodings : Obligations.WorkedEncodings := by
  unfold Obligations.WorkedEncodings
  decide

end Sys2Proof

/-! ## The invariant and its step (R23) -/

namespace Sys2Proof.Machine

variable {s t : State} {r : Running} {bc ptr rem : Half} {w : Word} {i : Instr}

/-! ### The in-flight record, one equation per value of `OP` -/

theorem State.inFlight_idle_iff (hop : s.op = .idle) : s.InFlight ↔ s.running = none := by
  rw [InFlight, hop]
  cases s.running <;> simp

theorem State.inFlight_hdr2_iff (hop : s.op = .hdr2 bc) :
    s.InFlight ↔ ∃ r, s.running = some r ∧ bc = r.bc ∧ need r.bc ≤ s.len.toNat := by
  rw [InFlight, hop]
  cases s.running <;> simp

theorem State.inFlight_hdr3_iff (hop : s.op = .hdr3 bc) :
    s.InFlight ↔ ∃ r, s.running = some r ∧ bc = r.bc ∧ need r.bc ≤ s.len.toNat := by
  rw [InFlight, hop]
  cases s.running <;> simp

/-- What R23 (vii) asks of `Body(ptr, rem)` for a `WHDR bc`. -/
abbrev BodyFits (bc ptr rem : Half) : Prop :=
  rem.toNat ≤ bc.toNat ∧ (bc.toNat - rem.toNat) % 8 = 0 ∧ ptr.toNat = 6 + (bc.toNat - rem.toNat) / 8 ∧
    ptr.toNat + ceil8 rem.toNat = need bc

theorem State.inFlight_body_iff (hop : s.op = .body ptr rem) :
    s.InFlight ↔ ∃ r, s.running = some r ∧ BodyFits r.bc ptr rem ∧ need r.bc ≤ s.len.toNat := by
  rw [InFlight, hop]
  cases s.running <;> simp [and_assoc]

theorem State.inFlight_wr4_iff (hop : s.op = .wr4) :
    s.InFlight ↔ ∃ r, s.running = some r ∧ need r.bc ≤ s.len.toNat := by
  rw [InFlight, hop]
  cases s.running <;> simp

theorem State.inFlight_wr5_iff (hop : s.op = .wr5) :
    s.InFlight ↔ ∃ r, s.running = some r ∧ need r.bc ≤ s.len.toNat := by
  rw [InFlight, hop]
  cases s.running <;> simp

/-- The payload starts at offset 6 with all its bits to fold (R99). -/
theorem BodyFits.start (bc : Half) : BodyFits bc 6 bc := by
  simp [BodyFits, need]

/-- A whole byte folded leaves a record that fits, since the offsets of a frame do not wrap (R96, R100). -/
theorem BodyFits.whole (h : BodyFits bc ptr rem) (h8 : 8 ≤ rem.toNat) : BodyFits bc (ptr + 1) (rem - 8) := by
  obtain ⟨hle, hmod, hptr, hneed⟩ := h
  have hrem := toNat_sub_eight h8
  have hptr' : (ptr + 1).toNat = ptr.toNat + 1 := by bv_omega
  simp only [BodyFits, hrem, hptr', ceil8] at hneed ⊢
  omega

/-! ### The micro-steps keep it -/

theorem BlockMove.inFlight (h : BlockMove s t) (hs : s.InFlight) : t.InFlight := by
  cases h with
  | idle _ => exact hs
  | hdr2 hop _ =>
    obtain ⟨r, hr, hbc, hlen⟩ := (State.inFlight_hdr2_iff hop).mp hs
    exact (State.inFlight_hdr3_iff rfl).mpr ⟨r, hr, hbc, hlen⟩
  | hdr3 hop _ =>
    obtain ⟨r, hr, rfl, hlen⟩ := (State.inFlight_hdr3_iff hop).mp hs
    exact (State.inFlight_body_iff rfl).mpr ⟨r, hr, .start r.bc, hlen⟩
  | whole hop h8 _ =>
    obtain ⟨r, hr, hfits, hlen⟩ := (State.inFlight_body_iff hop).mp hs
    exact (State.inFlight_body_iff rfl).mpr ⟨r, hr, hfits.whole h8, hlen⟩
  | partialByte hop _ _ _ =>
    obtain ⟨r, hr, -, hlen⟩ := (State.inFlight_body_iff hop).mp hs
    exact (State.inFlight_wr4_iff rfl).mpr ⟨r, hr, hlen⟩
  | noPartial hop =>
    obtain ⟨r, hr, -, hlen⟩ := (State.inFlight_body_iff hop).mp hs
    exact (State.inFlight_wr4_iff rfl).mpr ⟨r, hr, hlen⟩
  | wr4 hop =>
    obtain ⟨r, hr, hlen⟩ := (State.inFlight_wr4_iff hop).mp hs
    exact (State.inFlight_wr5_iff rfl).mpr ⟨r, hr, hlen⟩
  | wr5 _ => exact (State.inFlight_idle_iff rfl).mpr rfl

/-- A micro-step leaves `BUSY` as it is unless it completes the command. -/
theorem BlockMove.busy_cases (h : BlockMove s t) :
    (t.busy = s.busy ∧ (t.op = .idle ↔ s.op = .idle)) ∨ (t.busy = false ∧ t.op = .idle) := by
  cases h with
  | idle _ => exact .inl ⟨rfl, Iff.rfl⟩
  | wr5 _ => exact .inr ⟨rfl, rfl⟩
  | hdr2 hop _ | hdr3 hop _ | whole hop _ _ | partialByte hop _ _ _ | noPartial hop | wr4 hop =>
    exact .inl ⟨rfl, by simp [hop, stepWr4]⟩

/-- What a micro-step does to the frame buffer: nothing, or one of the two stores of R102. -/
theorem BlockMove.frame_cases (h : BlockMove s t) :
    t.frame = s.frame ∨ (s.op = .wr4 ∧ t.frame = s.frame.setByte 4 (crcHi s.acc)) ∨
      (s.op = .wr5 ∧ t.frame = s.frame.setByte 5 (crcLo s.acc)) := by
  cases h with
  | wr4 hop => exact .inr (.inl ⟨hop, rfl⟩)
  | wr5 hop => exact .inr (.inr ⟨hop, rfl⟩)
  | _ => exact .inl rfl

theorem BlockMove.frame_wf (h : BlockMove s t) (hs : s.frame.wf = true) : t.frame.wf = true := by
  obtain hf | ⟨-, hf⟩ | ⟨-, hf⟩ := h.frame_cases <;> rw [hf]
  · exact hs
  · exact Memory.wf_setByte crcOffHi _ hs
  · exact Memory.wf_setByte crcOffLo _ hs

theorem BlockMove.inv (h : BlockMove s t) (hs : s.Inv) : t.Inv := by
  obtain ⟨herr, hlost, hcause, hinfo, hever⟩ := h.sameFaults
  exact {
    lost_err := by rw [hlost, herr]; exact hs.lost_err
    err_cause := by rw [herr, hcause]; exact hs.err_cause
    err_info := by rw [herr, hinfo]; exact hs.err_info
    busy_err := by
      rw [herr]
      obtain ⟨hb, -⟩ | ⟨hb, -⟩ := h.busy_cases
      · rw [hb]; exact hs.busy_err
      · simp [hb]
    idle_busy := by
      obtain ⟨hb, hop⟩ | ⟨hb, hop⟩ := h.busy_cases
      · rw [hb, hop]; exact hs.idle_busy
      · simp [hb, hop]
    in_flight := h.inFlight hs.in_flight
    frame_wf := h.frame_wf hs.frame_wf
    err_ever := by rw [herr, hever]; exact hs.err_ever }

/-! ### The accepted words, the host and reset keep it -/

theorem State.Inv.op_idle (hs : s.Inv) (hb : s.busy = false) : s.op = .idle := hs.idle_busy.mpr hb

theorem State.Inv.running_none (hs : s.Inv) (hb : s.busy = false) : s.running = none :=
  (inFlight_idle_iff (hs.op_idle hb)).mp hs.in_flight

theorem State.Inv.setPort (hs : s.Inv) (p : List HostMove) : (s.setPort p).Inv := { hs with }

theorem State.Inv.setAcc (hs : s.Inv) (v : Half) : (s.setAcc v).Inv := { hs with }

/-- `LEN` bounds only a `WHDR` in flight. -/
theorem State.Inv.setLen (hs : s.Inv) (hb : s.busy = false) (v : Half) : (s.setLen v).Inv :=
  { hs with in_flight := (inFlight_idle_iff (s := s.setLen v) (hs.op_idle hb)).mpr (hs.running_none hb) }

theorem State.Inv.beginWhdr (hs : s.Inv) (he : s.err = false) (hlen : need bc ≤ s.len.toNat) :
    (s.beginWhdr bc).Inv :=
  { hs with
    busy_err := fun _ => he
    idle_busy := by simp
    in_flight := (inFlight_hdr2_iff rfl).mpr ⟨_, rfl, rfl, hlen⟩ }

theorem State.Inv.raise (hs : s.Inv) (hb : s.busy = false) {c : Cause} (hc : c ≠ .none) (w : Word) :
    (s.raise c w).Inv :=
  { hs with
    lost_err := fun _ => rfl
    err_cause := by simp [hc]
    err_info := by simp
    busy_err := by simp [hb]
    err_ever := fun _ => rfl }

theorem State.Inv.dropCommand (hs : s.Inv) (he : s.err = true) : s.dropCommand.Inv :=
  { hs with
    lost_err := fun _ => he
    err_ever := fun _ => rfl }

theorem State.Inv.clearError (hs : s.Inv) : s.clearError.Inv :=
  { hs with
    lost_err := by simp
    err_cause := by simp
    err_info := fun _ => rfl
    busy_err := fun _ => rfl
    err_ever := by simp }

theorem State.Inv.storeByte (hs : s.Inv) (off : Half) (v : Byte) : (s.storeByte off v).Inv :=
  { hs with frame_wf := storeByte_wf off v hs.frame_wf }

/-- Reset needs nothing of the state before it but the form of the frame buffer, which it leaves. -/
theorem State.applyReset_inv (hs : s.frame.wf = true) : s.applyReset.Inv where
  lost_err := by simp
  err_cause := by simp
  err_info := fun _ => rfl
  busy_err := by simp
  idle_busy := by simp
  in_flight := (inFlight_idle_iff rfl).mpr rfl
  frame_wf := hs
  err_ever := by simp

theorem ExecMove.inv (h : ExecMove s i t) (hs : s.Inv) (hb : s.busy = false) : t.Inv := by
  cases h with
  | dropped he _ => exact hs.dropCommand he
  | cleared => exact hs.clearError
  | ldacc _ _ | upd _ _ _ | upd8 _ _ => exact hs.setAcc _
  | setlen len _ => exact hs.setLen hb len
  | badCount _ _ => exact hs.raise hb (by simp) _
  | badBounds _ _ _ => exact hs.raise hb (by simp) _
  | begun he _ hlen => exact hs.beginWhdr he hlen

theorem acceptWord_keeps_inv (hs : s.Inv) (hb : s.busy = false) (h : acceptWord w s = .next t) : t.Inv := by
  obtain ⟨i, -, hi⟩ | ⟨e, -, ⟨he, rfl⟩ | ⟨-, rfl⟩⟩ := acceptWord_eq_next hb h
  · exact hi.inv hs hb
  · exact hs.dropCommand he
  · exact hs.raise hb (by simp) w

/-- The turns of a step, with the three occasions on which the block moves taken as one, and the host's two kinds of
read. -/
inductive Turn (s : State) : State → Prop where
  | block (p : List HostMove) {t : State} (h : BlockMove (s.setPort p) t) : Turn s t
  | accept {w : Word} {rest : List HostMove} {t : State} (hp : s.port = .command w :: rest) (hb : s.busy = false)
      (h : acceptWord w (s.setPort rest) = .next t) : Turn s t
  | read (p : List HostMove) (x : HostRead) (n : Nat) : Turn s { s with port := p, lastRead := some x, draws := n }
  | write {off : Half} {v : Byte} {rest : List HostMove} (hp : s.port = .writeByte off v :: rest) (hop : s.op = .idle) :
      Turn s ((s.setPort rest).storeByte off v)
  | reset {rest : List HostMove} (hp : s.port = .reset :: rest) : Turn s (s.setPort rest).applyReset

theorem step_turn (h : step s = .next t) : Turn s t := by
  cases step_eq_next h with
  | block _ hblock => exact .block s.port (blockStep_eq_next hblock)
  | @pass rest _ _ hblock => exact .block rest (blockStep_eq_next hblock)
  | wait _ _ hblock => exact .block s.port (blockStep_eq_next hblock)
  | accept hp hb haccept => exact .accept hp hb haccept
  | @readReg idx rest _ =>
    obtain ⟨x, n, hread⟩ := hostReadReg_eq idx (s.setPort rest)
    rw [hread]
    exact .read rest x n
  | readByte _ hread =>
    obtain ⟨v, n, -, rfl⟩ := hostReadByte_eq_next hread
    exact .read _ _ n
  | writeByte hp hop => exact .write hp hop
  | reset hp => exact .reset hp

theorem step_keeps_inv (hs : s.Inv) (h : step s = .next t) : t.Inv := by
  cases step_turn h with
  | block p hmove => exact hmove.inv (hs.setPort p)
  | @accept _ rest _ _ hb haccept => exact acceptWord_keeps_inv (hs.setPort rest) hb haccept
  | read p x n => exact { hs with }
  | write _ _ => exact (hs.setPort _).storeByte _ _
  | reset _ => exact State.applyReset_inv hs.frame_wf

/-- Settles O50: the micro-steps, the accepted words, the host's moves and reset each keep the invariant. -/
theorem stepKeepsTheInvariant : Obligations.StepKeepsTheInvariant := by
  unfold Obligations.StepKeepsTheInvariant
  exact fun _ _ hs h => step_keeps_inv hs h

/-- Settles O51: the reset input makes the invariant hold and leaves `port`, and it changes nothing of the power-up
state. -/
theorem resetMeetsTheInvariant : Obligations.ResetMeetsTheInvariant := by
  unfold Obligations.ResetMeetsTheInvariant
  exact fun p => State.applyReset_inv (s := State.reset.setPort p) State.reset_frame_wf

end Sys2Proof.Machine

/-! ## What a step can change, over all steps (R11, R13, R22, R37, R148, R152) -/

namespace Sys2Proof.Machine

variable {s t : State} {w : Word} {i : Instr} {rest : List HostMove}

/-! ### The parameter and the host's own fields -/

/-- Nothing of the parameter and of what the model keeps for the host has changed. -/
structure SameHost (s t : State) : Prop where
  params : t.params = s.params
  port : t.port = s.port
  lastRead : t.lastRead = s.lastRead
  draws : t.draws = s.draws

theorem BlockMove.sameHost (h : BlockMove s t) : SameHost s t := by
  cases h <;> exact ⟨rfl, rfl, rfl, rfl⟩

theorem ExecMove.sameHost (h : ExecMove s i t) : SameHost s t := by
  cases h <;> exact ⟨rfl, rfl, rfl, rfl⟩

theorem acceptWord_sameHost (hb : s.busy = false) (h : acceptWord w s = .next t) : SameHost s t := by
  obtain ⟨i, -, hi⟩ | ⟨e, -, ⟨-, rfl⟩ | ⟨-, rfl⟩⟩ := acceptWord_eq_next hb h
  · exact hi.sameHost
  · exact ⟨rfl, rfl, rfl, rfl⟩
  · exact ⟨rfl, rfl, rfl, rfl⟩

/-- Settles O59: no turn writes the parameter, neither the block's, nor an accepted word's, nor the host's or reset's. -/
theorem parameterIsFixed : Obligations.ParameterIsFixed := by
  unfold Obligations.ParameterIsFixed
  intro s t h
  cases step_turn h with
  | block _ hmove => exact hmove.sameHost.params
  | @accept _ rest _ _ hb haccept => exact (acceptWord_sameHost (s := s.setPort rest) hb haccept).params
  | read _ _ _ | write _ _ | reset _ => rfl

/-! ### The frame buffer (R37) -/

/-- How a step can leave the frame buffer. -/
inductive FrameMove (s t : State) : Prop where
  | kept (hf : t.frame = s.frame)
  | host {off : Half} {v : Byte} {rest : List HostMove} (hp : s.port = .writeByte off v :: rest) (hop : s.op = .idle)
      (hf : t.frame = s.frame.setByte off.toNat v)
  | high (hop : s.op = .wr4) (hf : t.frame = s.frame.setByte 4 (crcHi s.acc))
  | low (hop : s.op = .wr5) (hf : t.frame = s.frame.setByte 5 (crcLo s.acc))

theorem ExecMove.frame_eq (h : ExecMove s i t) : t.frame = s.frame := by
  cases h <;> rfl

theorem acceptWord_frame_eq (hb : s.busy = false) (h : acceptWord w s = .next t) : t.frame = s.frame := by
  obtain ⟨i, -, hi⟩ | ⟨e, -, ⟨-, rfl⟩ | ⟨-, rfl⟩⟩ := acceptWord_eq_next hb h
  · exact hi.frame_eq
  · rfl
  · rfl

theorem step_frameMove (h : step s = .next t) : FrameMove s t := by
  cases step_turn h with
  | block _ hmove =>
    obtain hf | ⟨hop, hf⟩ | ⟨hop, hf⟩ := hmove.frame_cases
    · exact .kept hf
    · exact .high hop hf
    · exact .low hop hf
  | @accept _ rest _ _ hb haccept => exact .kept (acceptWord_frame_eq (s := s.setPort rest) hb haccept)
  | read _ _ _ | reset _ => exact .kept rfl
  | write hp hop => exact .host hp hop rfl

/-- Settles O52: every write of a step is a write of one byte at a 16-bit offset. -/
theorem stepKeepsTheFrameCanonical : Obligations.StepKeepsTheFrameCanonical := by
  unfold Obligations.StepKeepsTheFrameCanonical
  intro s t hs h
  cases step_frameMove h with
  | kept hf => rwa [hf]
  | host _ _ hf => rw [hf]; exact Memory.wf_setByte _ _ hs
  | high _ hf => rw [hf]; exact Memory.wf_setByte crcOffHi _ hs
  | low _ hf => rw [hf]; exact Memory.wf_setByte crcOffLo _ hs

/-- A write changes no byte but the one at its offset. -/
theorem Memory.eq_of_byteAt_setByte_ne {m : Memory} {a b : Nat} {v : Byte}
    (h : (m.setByte b v).byteAt a ≠ m.byteAt a) : a = b :=
  of_not_not fun hne => h (byteAt_setByte_other m v hne)

/-- Settles O58: the writes that a step can make are the host's and the two stores of R102, and each changes the byte at
its own offset alone. -/
theorem frameWrittenOnlyByHostAndCrcStores : Obligations.FrameWrittenOnlyByHostAndCrcStores := by
  unfold Obligations.FrameWrittenOnlyByHostAndCrcStores
  intro s t a h hne
  cases step_frameMove h with
  | kept hf => exact absurd (by rw [hf]) hne
  | host hp hop hf =>
    rw [hf] at hne
    exact .inl ⟨_, _, _, hp, Memory.eq_of_byteAt_setByte_ne hne, hop⟩
  | high hop hf =>
    rw [hf] at hne
    exact .inr (.inl ⟨hop, Memory.eq_of_byteAt_setByte_ne hne⟩)
  | low hop hf =>
    rw [hf] at hne
    exact .inr (.inr ⟨hop, Memory.eq_of_byteAt_setByte_ne hne⟩)

/-! ### `ACC` (R11) -/

/-- The commands that write `ACC`. -/
abbrev WritesAcc (i : Instr) : Prop :=
  (∃ v, i = .ldacc v) ∨ (∃ n b, i = .upd n b) ∨ (∃ b, i = .upd8 b) ∨ (∃ bc, i = .whdr bc)

theorem ne_zero_of_eight_le {rem : Half} (h : 8 ≤ rem.toNat) : rem ≠ 0 := by
  rintro rfl
  exact absurd h (by decide)

/-- A micro-step that reads no byte keeps `ACC`. -/
theorem BlockMove.acc_eq (h : BlockMove s t) (hr : s.op.reads = none) : t.acc = s.acc := by
  cases h with
  | idle _ | noPartial _ | wr4 _ | wr5 _ => rfl
  | hdr2 hop _ | hdr3 hop _ => simp [hop, Op.reads] at hr
  | partialByte hop h0 _ _ =>
    rw [hop, Op.reads, if_neg h0] at hr
    cases hr
  | whole hop h8 _ =>
    rw [hop, Op.reads, if_neg (ne_zero_of_eight_le h8)] at hr
    cases hr

theorem BlockMove.acc_cases (h : BlockMove s t) : t.acc = s.acc ∨ ∃ off, s.op.reads = some off := by
  cases hr : s.op.reads with
  | none => exact .inl (h.acc_eq hr)
  | some off => exact .inr ⟨off, rfl⟩

theorem ExecMove.acc_cases (h : ExecMove s i t) : t.acc = s.acc ∨ (s.err = false ∧ WritesAcc i) := by
  cases h with
  | ldacc _ he => exact .inr ⟨he, .inl ⟨_, rfl⟩⟩
  | upd _ _ he => exact .inr ⟨he, .inr (.inl ⟨_, _, rfl⟩)⟩
  | upd8 _ he => exact .inr ⟨he, .inr (.inr (.inl ⟨_, rfl⟩))⟩
  | begun he _ _ => exact .inr ⟨he, .inr (.inr (.inr ⟨_, rfl⟩))⟩
  | _ => exact .inl rfl

theorem acceptWord_acc_cases (hb : s.busy = false) (h : acceptWord w s = .next t) :
    t.acc = s.acc ∨ ∃ i, decode w = .ok i ∧ s.Ready ∧ WritesAcc i := by
  obtain ⟨i, hd, hi⟩ | ⟨e, -, ⟨-, rfl⟩ | ⟨-, rfl⟩⟩ := acceptWord_eq_next hb h
  · obtain hacc | ⟨he, hw⟩ := hi.acc_cases
    · exact .inl hacc
    · exact .inr ⟨i, hd, ⟨hb, he⟩, hw⟩
  · exact .inl rfl
  · exact .inl rfl

/-- R11: what a step leaves in `ACC`. -/
theorem step_acc_cases (h : step s = .next t) :
    t.acc = s.acc ∨
      (∃ w i rest, s.port = .command w :: rest ∧ decode w = .ok i ∧ s.Ready ∧ WritesAcc i) ∨
      (∃ off, s.op.reads = some off) ∨ (∃ rest, s.port = .reset :: rest) := by
  cases step_turn h with
  | block _ hmove => exact hmove.acc_cases.imp_right fun hr => .inr (.inl hr)
  | @accept w rest _ hp hb haccept =>
    obtain hacc | ⟨i, hd, hs, hi⟩ := acceptWord_acc_cases (s := s.setPort rest) hb haccept
    · exact .inl hacc
    · exact .inr (.inl ⟨w, i, rest, hp, hd, hs, hi⟩)
  | read _ _ _ | write _ _ => exact .inl rfl
  | @reset rest hp => exact .inr (.inr (.inr ⟨rest, hp⟩))

/-- Settles O57: of the moves of a step only an accepted command, a micro-step that reads and reset write `ACC`. -/
theorem accumulatorWrittenOnlyByItsCommands : Obligations.AccumulatorWrittenOnlyByItsCommands := by
  unfold Obligations.AccumulatorWrittenOnlyByItsCommands
  exact fun _ _ h hne => (step_acc_cases h).resolve_left hne

/-- Settles O56: of the moves of a step only an accepted `SETLEN` and reset write `LEN`. -/
theorem lengthWrittenOnlyBySetlenAndReset : Obligations.LengthWrittenOnlyBySetlenAndReset := by
  unfold Obligations.LengthWrittenOnlyBySetlenAndReset
  exact fun _ _ h hne => (step_len_cases h).resolve_left hne

/-! ### A run that has gone wrong, and the end of a run (R148, R152) -/

/-- A command is lost only while a fault is recorded (R23 (ii)). -/
theorem State.Inv.err_of_goneWrong (hs : s.Inv) (h : s.GoneWrong) : s.err = true := h.elim id hs.lost_err

theorem State.Inv.not_busy_of_err (hs : s.Inv) (he : s.err = true) : s.busy = false := by
  cases hb : s.busy with
  | false => rfl
  | true => rw [hs.busy_err hb] at he; cases he

/-- Settles O54: with a fault recorded no `WHDR` is in flight and the block is not READY, which leaves the host's write
and reset of all that can write the frame, `ACC` or `LEN`. -/
theorem faultedBlockWritesNothing : Obligations.FaultedBlockWritesNothing := by
  unfold Obligations.FaultedBlockWritesNothing
  intro s t hs hwrong h
  have he := hs.err_of_goneWrong hwrong
  have hop := hs.op_idle (hs.not_busy_of_err he)
  have hready : ¬ s.Ready := fun ⟨_, hr⟩ => by simp [he] at hr
  refine ⟨fun hno => ?_, fun hno => ⟨?_, ?_⟩⟩
  · cases step_frameMove h with
    | kept hf => exact hf
    | host hp _ _ => exact absurd hp (hno _ _ _)
    | high hop' _ => simp [hop] at hop'
    | low hop' _ => simp [hop] at hop'
  · obtain hacc | ⟨_, _, _, _, _, hr, _⟩ | ⟨off, hr⟩ | ⟨rest, hp⟩ := step_acc_cases h
    · exact hacc
    · exact absurd hr hready
    · simp [hop, Op.reads] at hr
    · exact absurd hp (hno rest)
  · obtain hlen | ⟨_, _, _, _, _, hr, _⟩ | ⟨rest, hp, _⟩ := step_len_cases h
    · exact hlen
    · exact absurd hr hready
    · exact absurd hp (hno rest)

/-- While `OP = Idle` the block does not move of its own accord (R25). -/
theorem blockStep_of_idle (hop : s.op = .idle) : blockStep s = .next s := by
  rw [blockStep, hop]

/-- A host that makes no further move leaves every turn to the block (R25). -/
theorem step_of_port_nil (hp : s.port = []) : step s = blockStep s := by
  rw [step, hp]

/-- A run of a machine takes its steps one after the other. -/
theorem coreRun_succ {M : Host.Core} {s t : M.State} (n : Nat) (h : M.step s = .next t) :
    M.run (n + 1) s = M.run n t := by
  rw [Host.Core.run, h]

/-- Settles O55: with no move to come and `OP = Idle`, the step is the block's own and does nothing. -/
theorem endOfRunIsStable : Obligations.EndOfRunIsStable := by
  unfold Obligations.EndOfRunIsStable
  rintro s n hs ⟨hp, hb⟩
  have hstep : core.step s = .next s := (step_of_port_nil hp).trans (blockStep_of_idle (hs.op_idle hb))
  induction n with
  | zero => rfl
  | succ n ih => rw [coreRun_succ n hstep, ih]

/-! ### The command port (R19, R22) -/

/-- While BUSY a presented command leaves the turn to the block (R19). -/
theorem step_of_port_command_busy (hp : s.port = .command w :: rest) (hb : s.busy = true) : step s = blockStep s := by
  rw [step, hp]
  simp [hb]

/-- While BUSY an offered command waits without effect (R19). -/
theorem exec_of_busy (hb : s.busy = true) (i : Instr) : exec i s = .next s := by
  by_cases hi : i = .clrerr
  · rw [hi]
    simp [exec, execClrerr, hb]
  · obtain ⟨f, hf⟩ := exec_eq_offer hi s
    rw [hf, State.offer_busy hb]

/-- Settles O9: an offered command waits, the turn is the block's, and no micro-step takes a move off `port`. -/
theorem commandWaitsWhileBusy : Obligations.CommandWaitsWhileBusy := by
  unfold Obligations.CommandWaitsWhileBusy
  refine fun s hb => ⟨exec_of_busy hb, fun w rest hp => ?_⟩
  rw [step_of_port_command_busy hp hb]
  exact ⟨rfl, fun t h => (blockStep_eq_next h).sameHost.port⟩

/-- Settles O53: the invariant holds after the step, and the command leaves `port` when it is accepted and stays while it
waits. -/
theorem operatingStates : Obligations.OperatingStates := by
  unfold Obligations.OperatingStates
  intro s t w rest hs hp h
  have ht := step_keeps_inv hs h
  refine ⟨fun ⟨hb, he⟩ => by simp [ht.busy_err hb] at he, ?_⟩
  cases hb : s.busy with
  | false =>
    rw [step_of_port_command hp hb] at h
    simp [(acceptWord_sameHost (s := s.setPort rest) hb h).port]
  | true =>
    rw [step_of_port_command_busy hp hb] at h
    simp [(blockStep_eq_next h).sameHost.port, hp]

/-- The word that the opcode table has for a command is the command's word. -/
theorem tableWord_toNat (w : Word) : tableWord 32 w.toNat = w := by
  rw [tableWord, Nat.mod_eq_of_lt w.isLt, BitVec.ofNat_toNat, BitVec.setWidth_eq]

/-- Settles O7: the step of a presented word is its acceptance, and a command is decoded from its own word. -/
theorem stepRunsThePresentedCommand : Obligations.StepRunsThePresentedCommand := by
  unfold Obligations.StepRunsThePresentedCommand
  constructor
  · intro s w rest hp hb
    rw [step_of_port_command hp hb]
    exact ⟨fun i hd => acceptWord_of_decode hd _, fun e hd => acceptWord_of_illegal hd _⟩
  · intro s i hb
    have hp : (s.withFetchWord 32 (encode i).toNat).port = .command (encode i) :: s.port := by
      rw [State.withFetchWord, State.setPort_port, tableWord_toNat]
    rw [step_of_port_command hp hb, acceptWord_of_decode (Decoded.of_encode i).decode_eq_ok]
    rfl

end Sys2Proof.Machine

/-! ## The acceptance of a word: the pseudocode of R131, and what each command leaves unchanged -/

namespace Sys2Proof.Machine

variable {s t : State} {w : Word} {i : Instr} {bc off : Half}

theorem decode_clrerr_word : decode 0x50000000 = .ok .clrerr := by
  rw [← encode_clrerr]
  exact (Decoded.of_encode .clrerr).decode_eq_ok

/-- Settles O8: while FAULTED every word but that of `CLRERR` is dropped, and while READY an illegal word faults and each
command has its own effect. -/
theorem acceptFollowsThePseudocode : Obligations.AcceptFollowsThePseudocode := by
  unfold Obligations.AcceptFollowsThePseudocode
  intro w s hb
  by_cases he : s.err = true
  · rw [if_pos he]
    by_cases hw : w = 0x50000000
    · rw [if_pos hw, hw, acceptWord_of_decode decode_clrerr_word, exec_clrerr_of_not_busy hb]
      rfl
    · rw [if_neg hw, acceptWord_of_faulted hw ⟨hb, he⟩]
      rfl
  rw [if_neg he]
  have hs : s.Ready := ⟨hb, by simpa using he⟩
  cases hd : decode w with
  | error e => exact acceptWord_of_illegal_of_ready ⟨e, hd⟩ hs
  | ok i =>
    rw [acceptWord_of_decode hd]
    cases i with
    | ldacc v => exact (s.offer_ready_faulted (·.setAcc v)).1 hs
    | upd n b => exact (s.offer_ready_faulted fun s => s.setAcc (updateCrc b s.acc (updCount n))).1 hs
    | upd8 b => exact (s.offer_ready_faulted fun s => s.setAcc (updateCrc b s.acc 8)).1 hs
    | setlen len => exact (s.offer_ready_faulted (·.setLen len)).1 hs
    | clrerr => exact exec_clrerr_of_not_busy hb
    | whdr bc =>
      rw [exec_whdr_of_ready hs, State.acceptWhdr, encode_whdr_of_decode hd]
      rfl

/-- What executing a command does, in every operating state. -/
theorem exec_cases (h : exec i s = .next t) : (s.busy = true ∧ t = s) ∨ (s.busy = false ∧ ExecMove s i t) := by
  cases hb : s.busy with
  | false => exact .inr ⟨rfl, exec_eq_next hb h⟩
  | true =>
    rw [exec_of_busy hb] at h
    exact .inl ⟨rfl, (Host.Outcome.next.inj h).symm⟩

/-- Settles O20: the command waits, is dropped, or writes the one register that is its own. -/
theorem registerCommandsFrame : Obligations.RegisterCommandsFrame := by
  unfold Obligations.RegisterCommandsFrame
  intro i s t hi h
  obtain ⟨-, rfl⟩ | ⟨-, hmove⟩ := exec_cases h
  · simp
  · cases hmove with
    | dropped he hne => simp [he, hne]
    | cleared => simp
    | ldacc v he => simp [he]
    | upd n b he => simp [he]
    | upd8 b he => simp [he]
    | setlen len he => simp [he]
    | badCount _ _ | badBounds _ _ _ | begun _ _ _ => exact absurd rfl (hi _)

/-- Settles O28: the command waits, is dropped, faults at a check that does not pass, or begins. -/
theorem whdrAcceptanceFrame : Obligations.WhdrAcceptanceFrame := by
  unfold Obligations.WhdrAcceptanceFrame
  intro bc s t h
  obtain ⟨hb, rfl⟩ | ⟨hb, hmove⟩ := exec_cases h
  · simp
  · cases hmove with
    | dropped he _ => simp [hb, he]
    | badCount he hc => simp [hb, he, hc]
    | badBounds he hc hl => simp [hb, he, hl]
    | begun he hc hl => simp [hb, he, hc, hl]

/-! ### A fault that is cleared and met again (R130) -/

/-- `CLRERR` undoes a fault entry but for the ghost flag. -/
theorem State.Inv.clearError_raise (hs : s.Inv) (he : s.err = false) (c : Cause) (w : Word) :
    (s.raise c w).clearError = { s with everFaulted := true } := by
  calc (s.raise c w).clearError = { s.clearError with everFaulted := true } := rfl
    _ = { s with everFaulted := true } := by rw [hs.clearError_eq he]

/-- A `WHDR` that leaves an error has failed a check, and the ghost flag has no part in that. -/
theorem State.acceptWhdr_of_fault (he : s.err = false) (hf : (s.acceptWhdr bc).err = true) :
    ∃ c, s.acceptWhdr bc = s.raise c (encode (.whdr bc)) ∧
      ({ s with everFaulted := true } : State).acceptWhdr bc = s.raise c (encode (.whdr bc)) := by
  obtain ⟨hc, e⟩ | ⟨hc, hl, e⟩ | ⟨-, -, e⟩ := s.acceptWhdr_cases bc
  · exact ⟨_, e, acceptWhdr_of_bitcntMax_lt (s := { s with everFaulted := true }) hc⟩
  · exact ⟨_, e, acceptWhdr_of_len_lt (s := { s with everFaulted := true }) hc hl⟩
  · simp [e, he] at hf

/-- Settles O26: the faulting `WHDR` is a fault entry, `CLRERR` undoes it, and the checks fail again as they did. -/
theorem clearedFaultRepeats : Obligations.ClearedFaultRepeats := by
  unfold Obligations.ClearedFaultRepeats
  intro s t bc hinv hs h hf
  rw [exec_whdr_of_ready hs] at h
  cases h
  obtain ⟨c, e, e'⟩ := State.acceptWhdr_of_fault hs.2 hf
  have hs' : ({ s with everFaulted := true } : State).Ready := hs
  have hb : (s.raise c (encode (.whdr bc))).busy = false := hs.1
  rw [e, exec_whdr_of_ready hs', e', exec_clrerr_of_not_busy hb, hinv.clearError_raise hs.2]
  exact ⟨rfl, rfl⟩

/-! ## The micro-steps: what they read, what they write, and where they stop (R34 to R39, U14) -/

theorem Op.writes_eq_some {o : Op} (h : o.writes = some off) :
    (o = .wr4 ∧ off = crcOffHi) ∨ (o = .wr5 ∧ off = crcOffLo) := by
  cases o with
  | wr4 => exact .inl ⟨rfl, (Option.some.inj h).symm⟩
  | wr5 => exact .inr ⟨rfl, (Option.some.inj h).symm⟩
  | _ => cases h

/-- Settles O32: a micro-step is one of the moves of R98 to R102, of which two store a byte of `ACC`. -/
theorem blockStepFrame : Obligations.BlockStepFrame := by
  unfold Obligations.BlockStepFrame
  intro s t h
  have hmove := blockStep_eq_next h
  obtain ⟨herr, hlost, hcause, hinfo, hever⟩ := hmove.sameFaults
  obtain ⟨hparams, hport, hread, hdraws⟩ := hmove.sameHost
  refine ⟨fun a ha => ?_, fun off hw => ?_, hmove.acc_eq, hmove.len_eq, herr, hlost, hcause, hinfo, hparams, hport, hread,
    hdraws, hever⟩
  · obtain hf | ⟨hop, hf⟩ | ⟨hop, hf⟩ := hmove.frame_cases <;> rw [hf]
    · exact Memory.byteAt_setByte_other _ _ (ha crcOffHi (by rw [hop]; rfl))
    · exact Memory.byteAt_setByte_other _ _ (ha crcOffLo (by rw [hop]; rfl))
  · obtain ⟨hop, rfl⟩ | ⟨hop, rfl⟩ := Op.writes_eq_some hw
    · rw [blockStep_of_wr4 hop] at h
      cases h
      exact Memory.byteAt_setByte_same _ _ _
    · rw [blockStep_of_wr5 hop] at h
      cases h
      exact Memory.byteAt_setByte_same _ _ _

/-- A micro-step that reads is a read and fold of that byte. -/
theorem blockStep_of_reads (h : s.op.reads = some off) : ∃ n o, blockStep s = s.foldFrom off n o := by
  cases hop : s.op with
  | idle | wr4 | wr5 => simp [hop, Op.reads] at h
  | hdr2 bc =>
    rw [hop] at h
    cases h
    exact ⟨_, _, blockStep_of_hdr2 hop⟩
  | hdr3 bc =>
    rw [hop] at h
    cases h
    exact ⟨_, _, blockStep_of_hdr3 hop⟩
  | body ptr rem =>
    by_cases h0 : rem = 0
    · simp [hop, Op.reads, h0] at h
    rw [hop, Op.reads, if_neg h0] at h
    cases h
    rw [blockStep_of_body hop]
    by_cases h8 : 8 ≤ rem.toNat
    · exact ⟨_, _, stepBody_of_eight_le h8 s⟩
    · exact ⟨⟨rem.toNat, by omega⟩, _, stepBody_of_partial rfl (by omega) h0 s⟩

/-- Where nothing has written the byte, the read stops. -/
theorem State.foldFrom_of_unwritten (hv : s.frame.byteAt off.toNat = none) (n : Fin 9) (o : Op) :
    s.foldFrom off n o = .fault (.unwrittenByte off) := by
  rw [foldFrom, memRead, hv]

/-- Settles O34: a micro-step that reads is a read and fold of its byte, which stops or goes on by whether the byte is
written. -/
theorem unwrittenByteStops : Obligations.UnwrittenByteStops := by
  unfold Obligations.UnwrittenByteStops
  intro s off hr
  obtain ⟨n, o, hstep⟩ := blockStep_of_reads hr
  rw [hstep]
  cases hv : s.frame.byteAt off.toNat with
  | none => simp [State.foldFrom_of_unwritten hv]
  | some v => simp [State.foldFrom_of_byteAt hv]

/-- The moves of R98 to R102 are exactly what the block's own step answers. -/
theorem BlockMove.blockStep_eq (h : BlockMove s t) : blockStep s = .next t := by
  cases h with
  | idle hop => exact blockStep_of_idle hop
  | hdr2 hop hv => exact (blockStep_of_hdr2 hop).trans (State.foldFrom_of_byteAt hv _ _)
  | hdr3 hop hv => exact (blockStep_of_hdr3 hop).trans (State.foldFrom_of_byteAt hv _ _)
  | whole hop h8 hv =>
    rw [blockStep_of_body hop, stepBody_of_eight_le h8]
    exact State.foldFrom_of_byteAt hv _ _
  | @partialByte _ rem _ hop h0 h8 hv =>
    rw [blockStep_of_body hop, stepBody_of_partial (n := ⟨rem.toNat, by omega⟩) rfl (Nat.le_of_lt_succ h8) h0]
    exact State.foldFrom_of_byteAt hv _ _
  | noPartial hop => exact blockStep_of_body hop
  | wr4 hop => exact blockStep_of_wr4 hop
  | wr5 hop => exact blockStep_of_wr5 hop

/-- A frame buffer that agrees where the micro-step reads allows the same move. -/
theorem BlockMove.withFrame (h : BlockMove s t) {m : Memory}
    (hm : ∀ off, s.op.reads = some off → m.byteAt off.toNat = s.frame.byteAt off.toNat) :
    ∃ m', BlockMove { s with frame := m } { t with frame := m' } := by
  cases h with
  | idle hop => exact ⟨_, .idle hop⟩
  | hdr2 hop hv => exact ⟨_, .hdr2 hop ((hm hdrOffA (by rw [hop]; rfl)).trans hv)⟩
  | hdr3 hop hv => exact ⟨_, .hdr3 hop ((hm hdrOffB (by rw [hop]; rfl)).trans hv)⟩
  | whole hop h8 hv =>
    exact ⟨_, .whole hop h8 ((hm _ (by rw [hop, Op.reads, if_neg (ne_zero_of_eight_le h8)])).trans hv)⟩
  | partialByte hop h0 h8 hv =>
    have hv' := (hm _ (by rw [hop, Op.reads, if_neg h0])).trans hv
    exact ⟨_, .partialByte (s := { s with frame := m }) hop h0 h8 hv'⟩
  | noPartial hop => exact ⟨_, .noPartial hop⟩
  | wr4 hop => exact ⟨_, .wr4 hop⟩
  | wr5 hop => exact ⟨_, .wr5 hop⟩

/-- Settles O33: each move of R98 to R102 needs the frame buffer only at the offset that it reads. -/
theorem blockStepReadsOneByte : Obligations.BlockStepReadsOneByte := by
  unfold Obligations.BlockStepReadsOneByte
  intro s t m hm h
  obtain ⟨m', h'⟩ := (blockStep_eq_next h).withFrame hm
  exact ⟨_, h'.blockStep_eq, rfl⟩

/-! ### Bounds (R38) -/

/-- The longest frame has 8198 bytes (R96). -/
theorem need_le (bc : Half) : need bc ≤ 8198 := by
  have := bc.isLt
  simp only [need, ceil8]
  omega

/-- Offsets 2 to 5 are part of every frame. -/
theorem lt_need_of_lt_six {a : Nat} (h : a < 6) (bc : Half) : a < need bc := h.trans_le (six_le_need bc)

theorem BodyFits.ptr_lt_need {ptr rem : Half} (h : BodyFits bc ptr rem) (h0 : rem ≠ 0) : ptr.toNat < need bc := by
  obtain ⟨-, -, -, hneed⟩ := h
  have hpos : rem.toNat ≠ 0 := fun hz => h0 (BitVec.eq_of_toNat_eq hz)
  simp only [ceil8] at hneed
  omega

/-- The offsets that a `WHDR` in flight accesses are offsets of its frame, which `LEN` covers. -/
theorem State.InFlight.offset_lt (hs : s.InFlight) (h : s.op.reads = some off ∨ s.op.writes = some off) :
    ∃ bc, off.toNat < need bc ∧ need bc ≤ s.len.toNat := by
  cases hop : s.op with
  | idle => simp [hop, Op.reads, Op.writes] at h
  | hdr2 bc =>
    obtain ⟨r, -, -, hlen⟩ := (inFlight_hdr2_iff hop).mp hs
    obtain rfl : hdrOffA = off := by simpa [hop, Op.reads, Op.writes] using h
    exact ⟨r.bc, lt_need_of_lt_six (by decide) _, hlen⟩
  | hdr3 bc =>
    obtain ⟨r, -, -, hlen⟩ := (inFlight_hdr3_iff hop).mp hs
    obtain rfl : hdrOffB = off := by simpa [hop, Op.reads, Op.writes] using h
    exact ⟨r.bc, lt_need_of_lt_six (by decide) _, hlen⟩
  | body ptr rem =>
    obtain ⟨r, -, hfits, hlen⟩ := (inFlight_body_iff hop).mp hs
    obtain ⟨h0, rfl⟩ : rem ≠ 0 ∧ ptr = off := by simpa [hop, Op.reads, Op.writes] using h
    exact ⟨r.bc, hfits.ptr_lt_need h0, hlen⟩
  | wr4 =>
    obtain ⟨r, -, hlen⟩ := (inFlight_wr4_iff hop).mp hs
    obtain rfl : crcOffHi = off := by simpa [hop, Op.reads, Op.writes] using h
    exact ⟨r.bc, lt_need_of_lt_six (by decide) _, hlen⟩
  | wr5 =>
    obtain ⟨r, -, hlen⟩ := (inFlight_wr5_iff hop).mp hs
    obtain rfl : crcOffLo = off := by simpa [hop, Op.reads, Op.writes] using h
    exact ⟨r.bc, lt_need_of_lt_six (by decide) _, hlen⟩

/-- Settles O35: the offsets accessed are below `need`, which is at most `LEN` and at most 8198. -/
theorem blockStaysInBounds : Obligations.BlockStaysInBounds := by
  unfold Obligations.BlockStaysInBounds
  intro s off hs h
  obtain ⟨bc, hoff, hlen⟩ := hs.in_flight.offset_lt h
  have := need_le bc
  omega

end Sys2Proof.Machine

/-! ## The host: the register port, byte writes and byte reads (R17, R146, R147) -/

namespace Sys2Proof.Machine

variable {s t : State} {off : Half} {rest : List HostMove}

/-! ### The turns of the host -/

theorem step_of_port_readReg {idx : BitVec 3} (hp : s.port = .readReg idx :: rest) :
    step s = .next (hostReadReg idx (s.setPort rest)) := by
  rw [step, hp]

theorem step_of_port_readByte (hp : s.port = .readByte off :: rest) : step s = hostReadByte off (s.setPort rest) := by
  rw [step, hp]

theorem step_of_port_writeByte {v : Byte} (hp : s.port = .writeByte off v :: rest) :
    step s = hostWriteByte off v (s.setPort rest) := by
  rw [step, hp]

/-! ### Registers -/

theorem State.regPort_zero (s : State) : s.regPort 0 = s.accView.setWidth 32 := rfl

theorem State.regPort_two (s : State) : s.regPort 2 = s.statusBits.setWidth 32 := rfl

theorem State.accView_of_not_busy (hb : s.busy = false) : s.accView = s.acc := by
  simp [accView, hb]

/-- Whatever index 0 shows has 16 bits (R17). -/
theorem State.regPort_zero_lt (s : State) : (s.regPort 0).toNat < 65536 := by
  rw [regPort_zero, BitVec.toNat_setWidth]
  exact (Nat.mod_le _ _).trans_lt s.accView.isLt

/-- `STATUS` bit by bit (R14, R17). -/
theorem State.regPort_two_bits (s : State) :
    (s.regPort 2).getLsbD 0 = s.busy ∧ (s.regPort 2).getLsbD 1 = s.err ∧ (s.regPort 2).getLsbD 2 = s.lost ∧
      ∀ i, 3 ≤ i → (s.regPort 2).getLsbD i = false := by
  have hbits : ∀ lost err busy : Bool, let x := BitVec.ofBool lost ++ BitVec.ofBool err ++ BitVec.ofBool busy
      x.getLsbD 0 = busy ∧ x.getLsbD 1 = err ∧ x.getLsbD 2 = lost := by decide
  obtain ⟨h0, h1, h2⟩ := hbits s.lost s.err s.busy
  rw [regPort_two]
  refine ⟨?_, ?_, ?_, fun i hi => ?_⟩
  · rwa [BitVec.getLsbD_setWidth]
  · rwa [BitVec.getLsbD_setWidth]
  · rwa [BitVec.getLsbD_setWidth]
  · rw [BitVec.getLsbD_setWidth, BitVec.getLsbD_of_ge s.statusBits i hi, Bool.and_false]

/-- The host's read of a register: what it saw, and a draw where the value is free (R17). -/
theorem hostReadReg_eq_ite (idx : BitVec 3) (s : State) : hostReadReg idx s =
    { s with
      lastRead := some (.reg idx (s.regPort idx))
      draws := if s.drawsAcc idx then s.draws + 1 else s.draws } := by
  rw [hostReadReg]
  cases s.drawsAcc idx <;> rfl

/-- Settles O47: each index shows its register, and a read leaves what the host saw and a count of the free values. -/
theorem registerPortShowsTheRegisters : Obligations.RegisterPortShowsTheRegisters := by
  unfold Obligations.RegisterPortShowsTheRegisters
  constructor
  · intro s
    obtain ⟨hbusy, herr, hlost, hhigh⟩ := s.regPort_two_bits
    refine ⟨fun hb => ?_, s.regPort_zero_lt, rfl, hbusy, herr, hlost, hhigh, rfl, rfl, rfl, rfl, rfl⟩
    rw [State.regPort_zero, State.accView_of_not_busy hb]
  · intro s idx rest hp
    rw [step_of_port_readReg hp, hostReadReg_eq_ite]
    refine ⟨_, rfl, ?_⟩
    cases hd : (s.setPort rest).drawsAcc idx with
    | false => exact .inl rfl
    | true =>
      obtain ⟨hb, hidx⟩ : s.busy = true ∧ idx = 0 := by simpa [State.drawsAcc] using hd
      exact .inr ⟨hb, hidx, rfl⟩

/-! ### Byte writes -/

theorem hostWriteByte_of_idle (hop : s.op = .idle) (off : Half) (v : Byte) :
    hostWriteByte off v s = .next (s.storeByte off v) := by
  rw [hostWriteByte, if_pos hop]

theorem hostWriteByte_of_inFlight (hop : s.op ≠ .idle) (off : Half) (v : Byte) :
    hostWriteByte off v s = .fault (.hostWriteInFlight off) := by
  rw [hostWriteByte, if_neg hop]

/-- Settles O48: the host's write is one store of its byte, or the stop. -/
theorem hostWritesOnlyWhileIdle : Obligations.HostWritesOnlyWhileIdle := by
  unfold Obligations.HostWritesOnlyWhileIdle
  intro s off v rest hp
  rw [step_of_port_writeByte hp]
  constructor
  · intro hop
    exact ⟨_, hostWriteByte_of_idle (s := s.setPort rest) hop off v, Memory.byteAt_setByte_same _ _ _,
      fun a ha => Memory.byteAt_setByte_other _ _ ha, rfl⟩
  · intro hop
    exact hostWriteByte_of_inFlight (s := s.setPort rest) hop off v

/-! ### Byte reads -/

theorem State.crcByteInFlight_iff : s.crcByteInFlight off = true ↔ s.busy = true ∧ (off = 4 ∨ off = 5) := by
  rw [crcByteInFlight, Bool.and_eq_true, Bool.or_eq_true, decide_eq_true_iff, decide_eq_true_iff]
  rfl

theorem State.byteSeen_of_not_inFlight (h : s.busy = false ∨ off ≠ 4 ∧ off ≠ 5) :
    s.byteSeen off = s.frame.byteAt off.toNat := by
  have hno : ¬ s.crcByteInFlight off = true := by
    rw [crcByteInFlight_iff]
    rintro ⟨hb, hoff⟩
    obtain hb' | ⟨h4, h5⟩ := h
    · simp [hb] at hb'
    · exact hoff.elim h4 h5
  rw [byteSeen, if_neg hno]

theorem State.byteSeen_of_inFlight (hb : s.busy = true) (hoff : off = 4 ∨ off = 5) :
    s.byteSeen off = s.crcByteSeen off := by
  rw [byteSeen, if_pos (crcByteInFlight_iff.mpr ⟨hb, hoff⟩)]

/-- The byte seen is the old one or the new one (R147). -/
theorem State.crcByteSeen_eq_some {r : Running} {v : Byte} (hr : s.running = some r) (h : s.crcByteSeen off = some v) :
    r.oldCrcByte off = some v ∨ newCrcByte s.frame r off = some v := by
  simp only [crcByteSeen, hr] at h
  split at h
  · exact (Option.or_eq_some_iff.mp h).elim .inr fun ⟨_, hold⟩ => .inl hold
  · exact .inl h

theorem newCrcByte_eq_some {m : Memory} {r : Running} {v : Byte} (h : newCrcByte m r off = some v) :
    ∃ c, frameCrc m r.bc = .ok c ∧ v = if off = crcOffHi then crcHi c else crcLo c := by
  unfold newCrcByte at h
  split at h
  · next c hc => exact ⟨c, hc, (Option.some.inj h).symm⟩
  · cases h

/-- Settles O49: outside R147 the read shows the byte in memory, and in it the old byte, kept at the acceptance, or the
new one, from the CRC of the frame. -/
theorem hostReadsFrameBytes : Obligations.HostReadsFrameBytes := by
  unfold Obligations.HostReadsFrameBytes
  intro s t off rest hp h
  rw [step_of_port_readByte hp] at h
  obtain ⟨v, d, hv, rfl⟩ := hostReadByte_eq_next h
  refine ⟨v, d, rfl, fun hno => ?_, fun hb hoff r hr => ?_⟩
  · rwa [State.byteSeen_of_not_inFlight (s := s.setPort rest) hno] at hv
  · rw [State.byteSeen_of_inFlight (s := s.setPort rest) hb hoff] at hv
    obtain hold | hnew := State.crcByteSeen_eq_some (s := s.setPort rest) hr hv
    · left
      obtain rfl | rfl := hoff
      · exact .inl ⟨rfl, hold⟩
      · exact .inr ⟨rfl, hold⟩
    · right
      obtain ⟨c, hc, rfl⟩ := newCrcByte_eq_some hnew
      obtain rfl | rfl := hoff
      · exact ⟨c, hc, .inl ⟨rfl, rfl⟩⟩
      · exact ⟨c, hc, .inr ⟨rfl, rfl⟩⟩

end Sys2Proof.Machine

/-! ## The fold: bit by bit, linear, bijective, in parts, and as the source writes it (R70 to R74) -/

namespace Sys2Proof.Machine

variable {v v' : Byte} {a acc : Half} {b : Bool}

/-! ### One bit (R70) -/

/-- The feedback is added where the constant has a 1. -/
theorem fold1_eq (acc : Half) (b : Bool) :
    fold1 acc b = acc <<< 1 ^^^ (if acc.getLsbD 15 ^^ b then crcPoly else 0) := by
  rw [fold1]
  split
  · rfl
  · exact BitVec.xor_zero.symm

theorem getLsbD_fold1 (acc : Half) (b : Bool) {i : Nat} (hi : i < 16) :
    (fold1 acc b).getLsbD i =
      ((!decide (i < 1) && acc.getLsbD (i - 1)) ^^ ((acc.getLsbD 15 ^^ b) && crcPoly.getLsbD i)) := by
  rw [fold1_eq, BitVec.getLsbD_xor, BitVec.getLsbD_shiftLeft, decide_eq_true hi, Bool.true_and]
  cases acc.getLsbD 15 ^^ b <;> simp

/-- `CRC_POLY` has a 1 at bits 0, 2 and 15 (R6). -/
theorem getLsbD_crcPoly : ∀ i < 16, crcPoly.getLsbD i = decide (i = 0 ∨ i = 2 ∨ i = 15) := by decide

/-- Settles O10: bit `i` is the bit below it, with the feedback where the constant has a 1. -/
theorem foldOneBitByBit : Obligations.FoldOneBitByBit := by
  unfold Obligations.FoldOneBitByBit
  intro acc b
  have hbit : ∀ i < 16, (fold1 acc b).getLsbD i = ((!decide (i < 1) && acc.getLsbD (i - 1)) ^^
      ((acc.getLsbD 15 ^^ b) && decide (i = 0 ∨ i = 2 ∨ i = 15))) := fun i hi => by
    rw [getLsbD_fold1 acc b hi, getLsbD_crcPoly i hi]
  refine ⟨?_, ?_, ?_, fun i h3 h14 => ?_, ?_⟩
  · rw [hbit 0 (by decide)]
    simp
  · rw [hbit 1 (by decide)]
    simp
  · rw [hbit 2 (by decide)]
    simp
  · have hi : ¬ (i = 0 ∨ i = 2 ∨ i = 15) := by omega
    have h1 : ¬ i < 1 := by omega
    rw [hbit i (by omega), decide_eq_false hi, decide_eq_false h1, Bool.and_false, Bool.xor_false]
    rfl
  · rw [hbit 15 (by decide)]
    simp

/-! ### Linearity (R74 (d), (f)) -/

theorem fold1_xor (a a' : Half) (b b' : Bool) : fold1 (a ^^^ a') (b ^^ b') = fold1 a b ^^^ fold1 a' b' := by
  apply BitVec.eq_of_getLsbD_eq
  intro i hi
  simp only [BitVec.getLsbD_xor, getLsbD_fold1 _ _ hi, Bool.and_xor_distrib_left, Bool.and_xor_distrib_right]
  simp only [Bool.xor_assoc, Bool.xor_left_comm, Bool.xor_comm]

theorem foldBits_xor (v v' : Byte) (a a' : Half) (n : Nat) :
    foldBits (v ^^^ v') (a ^^^ a') n = foldBits v a n ^^^ foldBits v' a' n := by
  induction n with
  | zero => rfl
  | succ n ih => rw [foldBits_succ, foldBits_succ, foldBits_succ, ih, BitVec.getLsbD_xor, fold1_xor]

/-- A linear map takes 0 to 0. -/
theorem foldBits_zero_zero (n : Nat) : foldBits 0 0 n = 0 := by
  have h := foldBits_xor 0 0 0 0 n
  rwa [BitVec.xor_self, BitVec.xor_self, BitVec.xor_self] at h

/-- Settles O14: one bit is linear, hence any number of bits by induction; the unit responses are evaluated. -/
theorem updateCrcIsLinear : Obligations.UpdateCrcIsLinear := by
  unfold Obligations.UpdateCrcIsLinear
  refine ⟨fold1_xor, fun v v' a a' n => foldBits_xor v v' a a' n.val, fun n => foldBits_zero_zero n.val, ?_⟩
  decide

/-! ### Bijectivity (R74 (e)) -/

/-- The result of one bit gives back the accumulator: bit 0 is the feedback, and each other bit then gives the bit below
it. -/
theorem fold1_injective (b : Bool) : Function.Injective fun acc : Half => fold1 acc b := by
  intro x y h
  have hbit : ∀ i < 16, (fold1 x b).getLsbD i = (fold1 y b).getLsbD i := fun i _ => congrArg (BitVec.getLsbD · i) h
  have h15 : x.getLsbD 15 = y.getLsbD 15 := by
    have h0 := hbit 0 (by decide)
    rw [getLsbD_fold1 x b (by decide), getLsbD_fold1 y b (by decide), getLsbD_crcPoly 0 (by decide)] at h0
    simpa using h0
  apply BitVec.eq_of_getLsbD_eq
  intro i hi
  obtain rfl | hi' : i = 15 ∨ i + 1 < 16 := by omega
  · exact h15
  · have hnext := hbit (i + 1) hi'
    rw [getLsbD_fold1 x b hi', getLsbD_fold1 y b hi', h15] at hnext
    simpa using hnext

theorem foldBits_injective (v : Byte) (n : Nat) : Function.Injective fun acc : Half => foldBits v acc n := by
  induction n with
  | zero => exact fun _ _ h => h
  | succ n ih => exact (fold1_injective (v.getLsbD (8 - (n + 1)))).comp ih

/-- Settles O15: the fold is injective, and there are only finitely many accumulators. -/
theorem updateCrcIsBijective : Obligations.UpdateCrcIsBijective := by
  unfold Obligations.UpdateCrcIsBijective
  exact ⟨fun b => (fold1_injective b).bijective_of_finite, fun v n => (foldBits_injective v n.val).bijective_of_finite⟩

/-! ### A fold in two parts (R74 (a), (b)) -/

theorem foldBits_add (v : Byte) (acc : Half) (k : Nat) {n : Nat} (h : k + n ≤ 8) :
    foldBits v acc (k + n) = foldBits (v <<< k) (foldBits v acc k) n := by
  induction n with
  | zero => rfl
  | succ n ih =>
    have hbit : (v <<< k).getLsbD (8 - (n + 1)) = v.getLsbD (8 - (k + n + 1)) := by
      have hlt : 8 - (n + 1) < 8 := by omega
      have hk : ¬ 8 - (n + 1) < k := by omega
      have hsub : 8 - (n + 1) - k = 8 - (k + n + 1) := by omega
      rw [BitVec.getLsbD_shiftLeft, decide_eq_true hlt, decide_eq_false hk, hsub]
      rfl
    rw [foldBits_succ, ← Nat.add_assoc, foldBits_succ, ih (by omega), hbit]

/-- Settles O13: the second part folds the bits that a shift by the first part's count brings to the top. -/
theorem updateCrcSplits : Obligations.UpdateCrcSplits := by
  unfold Obligations.UpdateCrcSplits
  refine ⟨fun _ _ => rfl, fun v acc n k j hn => ?_⟩
  have hle : k.val + j.val ≤ 8 := by omega
  simp only [updateCrc_eq, hn]
  exact foldBits_add v acc k.val hle

/-- The first bit of a fold, and the rest of them. -/
theorem foldBits_succ_left (v : Byte) (acc : Half) {n : Nat} (h : n + 1 ≤ 8) :
    foldBits v acc (n + 1) = foldBits (v <<< 1) (fold1 acc (v.getLsbD 7)) n := by
  rw [Nat.add_comm, foldBits_add v acc 1 (by omega)]
  rfl

/-! ### The source's loop (R71) -/

/-- Bit 16 of the shifted sum is the feedback. -/
theorem source_feedback (V C : Nat) :
    (C <<< 1 ^^^ V <<< 1) &&& 0x10000 ≠ 0 ↔ (C.testBit 15 ^^ V.testBit 15) = true := by
  have hmask : (C <<< 1 ^^^ V <<< 1) &&& 0x10000 = ((C <<< 1 ^^^ V <<< 1).testBit 16).toNat * 2 ^ 16 :=
    Nat.and_two_pow _ 16
  have hbit : (C <<< 1 ^^^ V <<< 1).testBit 16 = (C.testBit 15 ^^ V.testBit 15) := by
    simp [Nat.testBit_xor, Nat.testBit_shiftLeft]
  rw [hmask, hbit]
  cases C.testBit 15 ^^ V.testBit 15 <;> simp

theorem ofNat_shiftLeft_one (C : Nat) : BitVec.ofNat 16 (C <<< 1) = BitVec.ofNat 16 C <<< 1 := by
  apply BitVec.eq_of_toNat_eq
  simp [Nat.shiftLeft_eq]

/-- One turn of the source's loop is one bit of the fold. -/
theorem sourceLoop_succ (V C k : Nat) : ∃ C', sourceLoop V C (k + 1) = sourceLoop (V <<< 1) C' k ∧
    BitVec.ofNat 16 C' = fold1 (BitVec.ofNat 16 C) (V.testBit 15) := by
  have h15 : (BitVec.ofNat 16 C).getLsbD 15 = C.testBit 15 := by
    rw [BitVec.getLsbD_ofNat]
    rfl
  have hxor : BitVec.ofNat 16 (C <<< 1 ^^^ 0x8005) = BitVec.ofNat 16 (C <<< 1) ^^^ crcPoly := BitVec.ofNat_xor ..
  rw [sourceLoop, fold1, h15]
  by_cases hfb : (C.testBit 15 ^^ V.testBit 15) = true
  · rw [if_pos ((source_feedback V C).mpr hfb), if_pos hfb]
    exact ⟨_, rfl, by rw [hxor, ofNat_shiftLeft_one]⟩
  · rw [if_neg (mt (source_feedback V C).mp hfb), if_neg hfb]
    exact ⟨_, rfl, ofNat_shiftLeft_one C⟩

/-- The source's loop folds the bits of `V` from bit 15 downwards, which are those of the byte from bit 7 downwards. -/
theorem sourceLoop_eq_foldBits {V C n : Nat} (hn : n ≤ 8) (hV : ∀ i < n, V.testBit (15 - i) = v.getLsbD (7 - i)) :
    BitVec.ofNat 16 (sourceLoop V C n) = foldBits v (BitVec.ofNat 16 C) n := by
  induction n generalizing V C v with
  | zero => rfl
  | succ n ih =>
    obtain ⟨C', hloop, hC'⟩ := sourceLoop_succ V C n
    have htop : V.testBit 15 = v.getLsbD 7 := hV 0 (by omega)
    have hrest : ∀ i < n, (V <<< 1).testBit (15 - i) = (v <<< 1).getLsbD (7 - i) := by
      intro i hi
      have h1 : 1 ≤ 15 - i := by omega
      have h8 : 7 - i < 8 := by omega
      have h0 : ¬ 7 - i < 1 := by omega
      rw [Nat.testBit_shiftLeft, BitVec.getLsbD_shiftLeft, decide_eq_true h1, decide_eq_true h8, decide_eq_false h0]
      exact congrArg (true && ·) (hV (i + 1) (by omega))
    rw [hloop, ih (by omega) hrest, hC', htop, foldBits_succ_left v _ hn]

/-- Settles O12, by induction on the number of bits, one turn of the source's loop for each. -/
theorem updateCrcMatchesTheSource : Obligations.UpdateCrcMatchesTheSource := by
  unfold Obligations.UpdateCrcMatchesTheSource
  intro value crc n
  refine sourceLoop_eq_foldBits (by omega) fun i hi => ?_
  have hsub : 15 - i - 8 = 7 - i := by omega
  have hle : 8 ≤ 15 - i := by omega
  rw [Nat.testBit_shiftLeft, decide_eq_true hle, Bool.true_and, hsub, BitVec.testBit_toNat]

end Sys2Proof.Machine

/-! ## The CRC of a frame: its payload byte by byte, and the bits that it depends on (R32, R43, R91, R96) -/

namespace Sys2Proof.Machine

variable {m m' : Memory} {bc off ptr rem acc c : Half} {bits : List Bool}

/-! ### The payload, one equation per micro-step (R100, R101) -/

/-- An induction over the payload as R100 and R101 walk it: whole bytes while eight bits are left, then the rest. -/
theorem payload_induction {motive : Half → Half → Prop} (zero : ∀ ptr, motive ptr 0)
    (rest : ∀ ptr rem : Half, rem ≠ 0 → rem.toNat < 8 → motive ptr rem)
    (whole : ∀ ptr rem : Half, 8 ≤ rem.toNat → motive (ptr + 1) (rem - 8) → motive ptr rem) (ptr rem : Half) :
    motive ptr rem := by
  induction hn : rem.toNat using Nat.strong_induction_on generalizing ptr rem with
  | _ n ih =>
    subst hn
    by_cases h8 : 8 ≤ rem.toNat
    · exact whole ptr rem h8 (ih _ (by rw [toNat_sub_eight h8]; omega) _ _ rfl)
    · by_cases h0 : rem = 0
      · exact h0 ▸ zero ptr
      · exact rest ptr rem h0 (by omega)

theorem foldPayload_zero (m : Memory) (ptr acc : Half) : foldPayload m ptr 0 acc = .ok acc := rfl

theorem foldPayload_rest (h0 : rem ≠ 0) (h : rem.toNat < 8) (m : Memory) (ptr acc : Half) :
    foldPayload m ptr rem acc = foldByte m ptr ⟨rem.toNat, by omega⟩ acc := by
  have hbits : partialBits rem = ⟨rem.toNat, by omega⟩ := Fin.ext (Nat.mod_eq_of_lt h)
  have hpos : partialBits rem ≠ 0 := by
    rw [hbits]
    exact fun hz => h0 (BitVec.eq_of_toNat_eq (Fin.mk.inj hz))
  have hptr : ptr + BitVec.ofNat 16 0 = ptr := BitVec.add_zero ptr
  rw [foldPayload, wholeBytes_of_lt_eight h, hptr, foldWhole_zero, Except.bind, foldPartial, if_neg hpos, hbits]

theorem foldPayload_whole (h8 : 8 ≤ rem.toNat) (m : Memory) (ptr acc : Half) :
    foldPayload m ptr rem acc = (foldByte m ptr 8 acc).bind (foldPayload m (ptr + 1) (rem - 8)) := by
  have hptr : ptr + BitVec.ofNat 16 (wholeBytes (rem - 8) + 1) = ptr + 1 + BitVec.ofNat 16 (wholeBytes (rem - 8)) := by
    rw [BitVec.ofNat_add, BitVec.add_comm (BitVec.ofNat 16 _), ← BitVec.add_assoc]
    rfl
  rw [foldPayload, wholeBytes_of_eight_le h8, hptr, ← partialBits_sub_eight h8, foldWhole]
  cases foldByte m ptr 8 acc <;> rfl

/-- Offsets of a payload do not wrap. -/
theorem toNat_add_one (h8 : 8 ≤ rem.toNat) (hwrap : ptr.toNat + ceil8 rem.toNat < 65536) :
    (ptr + 1).toNat = ptr.toNat + 1 ∧ (ptr + 1).toNat + ceil8 (rem - 8).toNat < 65536 := by
  have h1 : (1 : Half).toNat = 1 := rfl
  rw [toNat_sub_eight h8]
  simp only [ceil8] at hwrap ⊢
  rw [BitVec.toNat_add, h1]
  omega

/-- The payload of the longest frame fits. -/
theorem payload_fits (bc : Half) : (6 : Half).toNat + ceil8 bc.toNat < 65536 := (need_le bc).trans_lt (by decide)

/-- The CRC of a frame, with the payload taken as one (R91). -/
theorem frameCrc_eq (m : Memory) (bc : Half) : frameCrc m bc =
    (foldByte m 2 8 crcInit).bind fun a => (foldByte m 3 8 a).bind (foldPayload m 6 bc) :=
  (crcToCome_hdr2_crcInit m bc).symm

/-! ### The bit stream (R32) -/

/-- Bit `i` of the stream that starts at an offset, each byte most significant bit first. -/
def streamBit (m : Memory) (off i : Nat) : Option Bool := (m.byteAt (off + i / 8)).map (·.getLsbD (7 - i % 8))

/-- The offset of bit `i` of the protected bits. -/
def bitOffset (i : Nat) : Nat := if i < 16 then 2 + i / 8 else 6 + (i - 16) / 8

theorem frameBit_eq (m : Memory) (i : Nat) : frameBit m i = (m.byteAt (bitOffset i)).map (·.getLsbD (7 - i % 8)) := rfl

theorem streamBit_succ_byte (m : Memory) (off i : Nat) : streamBit m (off + 1) i = streamBit m off (8 + i) := by
  have hoff : off + (8 + i) / 8 = off + 1 + i / 8 := by omega
  have hbit : (8 + i) % 8 = i % 8 := by omega
  rw [streamBit, streamBit, hoff, hbit]

/-- The bits of the byte at the start of the stream. -/
theorem streamBit_of_lt_eight (m : Memory) (off : Nat) {i : Nat} (h : i < 8) :
    streamBit m off i = (m.byteAt off).map (·.getLsbD (7 - i)) := by
  rw [streamBit, Nat.div_eq_of_lt h, Nat.mod_eq_of_lt h, Nat.add_zero]

/-- The header bits (R91 steps 1 and 2). -/
theorem frameBit_header (m : Memory) {i : Nat} (h : i < 16) : frameBit m i = streamBit m 2 i := by
  rw [frameBit, if_pos h, streamBit]

/-- The payload bits. -/
theorem frameBit_payload (m : Memory) (i : Nat) : frameBit m (16 + i) = streamBit m 6 i := by
  have hbit : (16 + i) % 8 = i % 8 := by omega
  rw [frameBit, if_neg (by omega), Nat.add_sub_cancel_left, hbit, streamBit]

/-! ### Equal bits, equal folds (R43) -/

/-- A fold of a byte depends on the bits that it folds, and on no other. -/
theorem foldByte_congr {n : Fin 9} (hn : n ≠ 0) (h : ∀ i < n.val, streamBit m off.toNat i = streamBit m' off.toNat i)
    (acc : Half) : foldByte m off n acc = foldByte m' off n acc := by
  have h0 : 0 < n.val := Nat.pos_of_ne_zero fun hz => hn (Fin.ext hz)
  have hbit : ∀ i < n.val,
      (m.byteAt off.toNat).map (·.getLsbD (7 - i)) = (m'.byteAt off.toNat).map (·.getLsbD (7 - i)) := fun i hi => by
    rw [← streamBit_of_lt_eight m _ (by omega), ← streamBit_of_lt_eight m' _ (by omega), h i hi]
  unfold foldByte memRead
  cases hv : m.byteAt off.toNat with
  | none =>
    have hv' : m'.byteAt off.toNat = none := by simpa [hv, eq_comm] using hbit 0 h0
    rw [hv']
  | some v =>
    cases hv' : m'.byteAt off.toNat with
    | none =>
      have hb := hbit 0 h0
      rw [hv, hv'] at hb
      cases hb
    | some v' =>
      have hfold : foldBits v acc n = foldBits v' acc n := foldBits_congr (fun j hj hj8 => by
        have hj' := hbit (7 - j) (by omega)
        rw [hv, hv', show 7 - (7 - j) = j by omega] at hj'
        exact Option.some.inj hj') acc
      exact congrArg Except.ok hfold

theorem foldPayload_congr (hwrap : ptr.toNat + ceil8 rem.toNat < 65536)
    (h : ∀ i < rem.toNat, streamBit m ptr.toNat i = streamBit m' ptr.toNat i) (acc : Half) :
    foldPayload m ptr rem acc = foldPayload m' ptr rem acc := by
  induction ptr, rem using payload_induction generalizing acc with
  | zero ptr => rw [foldPayload_zero, foldPayload_zero]
  | rest ptr rem h0 h8 =>
    rw [foldPayload_rest h0 h8, foldPayload_rest h0 h8]
    exact foldByte_congr (fun hz => h0 (BitVec.eq_of_toNat_eq (Fin.mk.inj hz))) h acc
  | whole ptr rem h8 ih =>
    obtain ⟨hptr, hwrap'⟩ := toNat_add_one h8 hwrap
    have hrest : ∀ i < (rem - 8).toNat, streamBit m (ptr + 1).toNat i = streamBit m' (ptr + 1).toNat i := fun i hi => by
      rw [toNat_sub_eight h8] at hi
      rw [hptr, streamBit_succ_byte, streamBit_succ_byte, h _ (by omega)]
    rw [foldPayload_whole h8, foldPayload_whole h8,
      foldByte_congr (n := 8) (by decide) (fun i hi => h i (lt_of_lt_of_le hi h8)) acc]
    exact congrArg _ (funext (ih hwrap' hrest))

/-- R43: the CRC is a function of the protected bits. -/
theorem frameCrc_congr (h : ∀ i, i < 16 + bc.toNat → frameBit m i = frameBit m' i) :
    frameCrc m bc = frameCrc m' bc := by
  have hheader : ∀ i < 16, streamBit m 2 i = streamBit m' 2 i := fun i hi => by
    rw [← frameBit_header m hi, ← frameBit_header m' hi, h i (by omega)]
  have hsecond : ∀ i < 8, streamBit m 3 i = streamBit m' 3 i := fun i hi => by
    rw [streamBit_succ_byte m 2, streamBit_succ_byte m' 2, hheader _ (by omega)]
  have hpayload : ∀ i < bc.toNat, streamBit m 6 i = streamBit m' 6 i := fun i hi => by
    rw [← frameBit_payload, ← frameBit_payload, h _ (by omega)]
  have h2 := foldByte_congr (off := 2) (n := 8) (by decide) fun i hi => hheader i (Nat.lt_trans hi (by decide))
  have h3 := foldByte_congr (off := 3) (n := 8) (by decide) hsecond
  have h6 := foldPayload_congr (ptr := 6) (payload_fits bc) hpayload
  simp only [frameCrc_eq, h2, h3, funext h6]

/-! ### The protected bits of an offset (R37) -/

/-- The byte at the offset of bit `i` has the protected bit `7 - i % 8`. -/
theorem protectedBit_of_bitOffset {i : Nat} (hi : i < 16 + bc.toNat) (hoff : bitOffset i = off.toNat) :
    ProtectedBit bc off (7 - i % 8) := by
  refine ⟨by omega, ?_⟩
  have heq : ∀ o : Half, off.toNat = o.toNat → off = o := fun o h => BitVec.eq_of_toNat_eq h
  unfold bitOffset at hoff
  split at hoff
  · obtain h2 | h3 : off.toNat = 2 ∨ off.toNat = 3 := by omega
    · exact .inl (heq 2 h2)
    · exact .inr (.inl (heq 3 h3))
  · exact .inr (.inr (by omega))

/-- Every protected bit is one of the `16 + bc`. -/
theorem ProtectedBit.exists_index {k : Nat} (h : ProtectedBit bc off k) :
    ∃ j < 16 + bc.toNat, bitOffset j = off.toNat ∧ 7 - j % 8 = k := by
  obtain ⟨hk, rfl | rfl | ⟨h6, hlt⟩⟩ := h
  · refine ⟨7 - k, by omega, ?_, by omega⟩
    rw [bitOffset, if_pos (by omega)]
    exact show 2 + (7 - k) / 8 = 2 by omega
  · refine ⟨15 - k, by omega, ?_, by omega⟩
    rw [bitOffset, if_pos (by omega)]
    exact show 2 + (15 - k) / 8 = 3 by omega
  · refine ⟨16 + (8 * (off.toNat - 6) + (7 - k)), by omega, ?_, by omega⟩
    rw [bitOffset, if_neg (by omega)]
    omega

/-- The offset and the place in the byte tell the protected bits apart. -/
theorem bitOffset_injective {i j : Nat} (hoff : bitOffset i = bitOffset j) (hbit : 7 - i % 8 = 7 - j % 8) : i = j := by
  unfold bitOffset at hoff
  split at hoff <;> split at hoff <;> omega

theorem frameBit_setByte_other {i : Nat} (h : bitOffset i ≠ off.toNat) (v : Byte) :
    frameBit (m.setByte off.toNat v) i = frameBit m i := by
  rw [frameBit_eq, frameBit_eq, Memory.byteAt_setByte_other m v h]

theorem frameCrc_setByte_of_unprotected (h : ∀ k, ¬ ProtectedBit bc off k) (v : Byte) :
    frameCrc (m.setByte off.toNat v) bc = frameCrc m bc :=
  frameCrc_congr fun _ hi => frameBit_setByte_other (fun hoff => h _ (protectedBit_of_bitOffset hi hoff)) v

/-- Settles O39: the folds of equal bits are equal, and a write at an offset without a protected bit leaves them all. -/
theorem crcIgnoresUnprotectedBits : Obligations.CrcIgnoresUnprotectedBits := by
  unfold Obligations.CrcIgnoresUnprotectedBits
  exact ⟨fun _ _ _ h => frameCrc_congr h, fun _ _ _ v h => frameCrc_setByte_of_unprotected h v⟩

/-! ### The fold over the list of the bits (R96) -/

/-- The list holds the first bits of the stream at an offset. -/
def Streams (m : Memory) (off : Nat) (bits : List Bool) : Prop := ∀ i < bits.length, streamBit m off i = bits[i]?

theorem Streams.take {o : Nat} (h : Streams m o bits) (n : Nat) : Streams m o (bits.take n) := by
  intro i hi
  rw [List.length_take] at hi
  rw [h i (by omega), List.getElem?_take_of_lt (by omega)]

/-- After the first byte the stream goes on at the next offset. -/
theorem Streams.drop_eight {o : Nat} (h : Streams m o bits) : Streams m (o + 1) (bits.drop 8) := by
  intro i hi
  rw [List.length_drop] at hi
  rw [streamBit_succ_byte, h _ (by omega), List.getElem?_drop]

/-- A fold of the top bits of a byte is a fold over the list of them. -/
theorem foldBits_eq_foldl {v : Byte} {n : Nat} (h : ∀ i < n, bits[i]? = some (v.getLsbD (7 - i))) (acc : Half) :
    foldBits v acc n = (bits.take n).foldl fold1 acc := by
  induction n with
  | zero => rfl
  | succ n ih =>
    have hbit : bits[n]? = some (v.getLsbD (8 - (n + 1))) := by
      rw [h n (by omega), show 8 - (n + 1) = 7 - n by omega]
    rw [foldBits_succ, ih fun i hi => h i (by omega), List.take_add_one, hbit, List.foldl_append]
    rfl

theorem Streams.foldByte_eq {n : Fin 9} (h : Streams m off.toNat bits) (h0 : n ≠ 0) (hn : n.val ≤ bits.length)
    (acc : Half) : foldByte m off n acc = .ok ((bits.take n).foldl fold1 acc) := by
  have hpos : 0 < n.val := Nat.pos_of_ne_zero fun hz => h0 (Fin.ext hz)
  have hbit : ∀ i < n.val, (m.byteAt off.toNat).map (·.getLsbD (7 - i)) = bits[i]? := fun i hi => by
    rw [← streamBit_of_lt_eight m _ (by omega), h i (by omega)]
  cases hv : m.byteAt off.toNat with
  | none =>
    have h0 := hbit 0 hpos
    rw [hv, List.getElem?_eq_getElem (by omega)] at h0
    cases h0
  | some v =>
    rw [foldByte_of_byteAt hv, updateCrc_eq, foldBits_eq_foldl (bits := bits) fun i hi => ?_]
    rw [← hbit i hi, hv]
    rfl

theorem Streams.foldByte_eight_eq (h : Streams m off.toNat bits) (h8 : 8 ≤ bits.length) (acc : Half) :
    foldByte m off 8 acc = .ok ((bits.take 8).foldl fold1 acc) :=
  h.foldByte_eq (n := 8) (by decide) h8 acc

theorem foldl_take_drop {α β : Type} (f : β → α → β) (b : β) (l : List α) (n : Nat) :
    (l.drop n).foldl f ((l.take n).foldl f b) = l.foldl f b := by
  rw [← List.foldl_append, List.take_append_drop]

theorem Streams.foldPayload_eq (h : Streams m ptr.toNat bits) (hlen : bits.length = rem.toNat)
    (hwrap : ptr.toNat + ceil8 rem.toNat < 65536) (acc : Half) :
    foldPayload m ptr rem acc = .ok (bits.foldl fold1 acc) := by
  induction ptr, rem using payload_induction generalizing acc bits with
  | zero ptr =>
    obtain rfl := List.eq_nil_of_length_eq_zero hlen
    rfl
  | rest ptr rem h0 h8 =>
    rw [foldPayload_rest h0 h8,
      h.foldByte_eq (fun hz => h0 (BitVec.eq_of_toNat_eq (Fin.mk.inj hz))) (le_of_eq hlen.symm)]
    exact congrArg (fun l => Except.ok (l.foldl fold1 acc)) (List.take_of_length_le (le_of_eq hlen))
  | whole ptr rem h8 ih =>
    obtain ⟨hptr, hwrap'⟩ := toNat_add_one h8 hwrap
    have hrest := h.drop_eight
    rw [← hptr] at hrest
    have hlen' : (bits.drop 8).length = (rem - 8).toNat := by rw [List.length_drop, hlen, toNat_sub_eight h8]
    rw [foldPayload_whole h8, h.foldByte_eight_eq (hlen ▸ h8)]
    exact (ih hrest hlen' hwrap' _).trans (by rw [foldl_take_drop])

/-- The header's 16 bits and the payload's bits are two streams. -/
theorem ProtectedBits.streams (h : ProtectedBits m bc bits) :
    Streams m 2 (bits.take 16) ∧ Streams m 6 (bits.drop 16) := by
  obtain ⟨hlen, hbit⟩ := h
  constructor
  · intro i hi
    rw [List.length_take] at hi
    rw [← frameBit_header m (by omega), hbit i (by omega), List.getElem?_take_of_lt (by omega)]
  · intro i hi
    rw [List.length_drop] at hi
    rw [← frameBit_payload, hbit _ (by omega), List.getElem?_drop]

theorem ProtectedBits.frameCrc_eq (h : ProtectedBits m bc bits) : frameCrc m bc = .ok (bits.foldl fold1 0xFFFF) := by
  obtain ⟨hheader, hpayload⟩ := h.streams
  obtain ⟨hlen, -⟩ := h
  have hlen16 : (bits.take 16).length = 16 := by rw [List.length_take]; omega
  have hlen8 : ((bits.take 16).drop 8).length = 8 := by rw [List.length_drop]; omega
  have hlenp : (bits.drop 16).length = bc.toNat := by rw [List.length_drop]; omega
  have h2 := hheader.foldByte_eight_eq (off := 2) (by omega)
  have h3 := hheader.drop_eight.foldByte_eight_eq (off := 3) (le_of_eq hlen8.symm)
  have h6 := hpayload.foldPayload_eq (ptr := 6) hlenp (payload_fits bc)
  rw [List.take_of_length_le (le_of_eq hlen8)] at h3
  simp only [Machine.frameCrc_eq, h2, h3, h6, Except.bind, foldl_take_drop, crcInit]

/-- Settles O38: each fold of R91 is a fold over the bits it reads, in the order of the stream. -/
theorem crcFoldsTheProtectedBits : Obligations.CrcFoldsTheProtectedBits := by
  unfold Obligations.CrcFoldsTheProtectedBits
  exact fun _ _ _ h => h.frameCrc_eq

end Sys2Proof.Machine

/-! ## A flipped bit, a repeated `WHDR`, and the fold by hand (R74 (g), R93, R94) -/

namespace Sys2Proof.Machine

variable {m : Memory} {s t u : State} {bc off ptr rem acc c : Half} {bits : List Bool}

/-! ### Where there is a CRC, there are the protected bits -/

/-- A fold that succeeds has read the bits that it folds. -/
theorem streamBit_isSome_of_foldByte {n : Fin 9} (h : foldByte m off n acc = .ok c) {i : Nat} (hi : i < 8) :
    (streamBit m off.toNat i).isSome = true := by
  obtain ⟨v, hv, -⟩ := foldByte_eq_ok.mp h
  rw [streamBit_of_lt_eight m _ hi, hv]
  rfl

theorem bind_eq_ok {α β : Type} {x : Except Fault α} {f : α → Except Fault β} {b : β} (h : x.bind f = .ok b) :
    ∃ a, x = .ok a ∧ f a = .ok b := by
  cases x with
  | error e => cases h
  | ok a => exact ⟨a, rfl, h⟩

theorem streamBit_isSome_of_foldPayload (hwrap : ptr.toNat + ceil8 rem.toNat < 65536)
    (h : foldPayload m ptr rem acc = .ok c) : ∀ i < rem.toNat, (streamBit m ptr.toNat i).isSome = true := by
  induction ptr, rem using payload_induction generalizing acc with
  | zero ptr => exact fun i hi => absurd hi (Nat.not_lt_zero i)
  | rest ptr rem h0 h8 =>
    rw [foldPayload_rest h0 h8] at h
    exact fun i hi => streamBit_isSome_of_foldByte h (hi.trans h8)
  | whole ptr rem h8 ih =>
    rw [foldPayload_whole h8] at h
    obtain ⟨a, hbyte, hrest⟩ := bind_eq_ok h
    obtain ⟨hptr, hwrap'⟩ := toNat_add_one h8 hwrap
    intro i hi
    by_cases hi8 : i < 8
    · exact streamBit_isSome_of_foldByte hbyte hi8
    · have hnext := ih hwrap' hrest (i - 8) (by rw [toNat_sub_eight h8]; omega)
      rwa [hptr, streamBit_succ_byte, Nat.add_sub_cancel' (Nat.not_lt.mp hi8)] at hnext

theorem frameBit_isSome_of_frameCrc (h : frameCrc m bc = .ok c) :
    ∀ i < 16 + bc.toNat, (frameBit m i).isSome = true := by
  rw [frameCrc_eq] at h
  obtain ⟨a2, h2, h⟩ := bind_eq_ok h
  obtain ⟨a3, h3, h6⟩ := bind_eq_ok h
  intro i hi
  by_cases hi16 : i < 16
  · rw [frameBit_header m hi16]
    by_cases hi8 : i < 8
    · exact streamBit_isSome_of_foldByte h2 hi8
    · have hsome := streamBit_isSome_of_foldByte h3 (i := i - 8) (by omega)
      rwa [show (3 : Half).toNat = 2 + 1 from rfl, streamBit_succ_byte,
        Nat.add_sub_cancel' (Nat.not_lt.mp hi8)] at hsome
  · have hsome := streamBit_isSome_of_foldPayload (payload_fits bc) h6 (i - 16) (by omega)
    rwa [show (6 : Half).toNat = 6 from rfl, ← frameBit_payload, Nat.add_sub_cancel' (Nat.not_lt.mp hi16)] at hsome

/-- Bits that are all there make a list. -/
theorem exists_bits {f : Nat → Option Bool} {n : Nat} (h : ∀ i < n, (f i).isSome = true) :
    ∃ bits : List Bool, bits.length = n ∧ ∀ i < n, f i = bits[i]? := by
  refine ⟨(List.range n).map fun i => (f i).getD false, by simp, fun i hi => ?_⟩
  obtain ⟨b, hb⟩ := Option.isSome_iff_exists.mp (h i hi)
  simp [hi, hb]

/-! ### One flipped bit (R74 (g)) -/

theorem fold1_not_ne (acc : Half) (b : Bool) : fold1 acc (!b) ≠ fold1 acc b := by
  intro h
  have h0 := congrArg (BitVec.getLsbD · 0) h
  have hb := (foldOneBitByBit acc b).1
  have hnb := (foldOneBitByBit acc (!b)).1
  simp only [hb, hnb] at h0
  simp at h0

theorem foldl_fold1_injective (bits : List Bool) : Function.Injective fun acc : Half => bits.foldl fold1 acc := by
  induction bits with
  | nil => exact fun _ _ h => h
  | cons b bits ih => exact ih.comp (fold1_injective b)

/-- The fold differs at the flipped bit, and the bits after it keep the difference. -/
theorem foldl_set_not_ne {j : Nat} (hj : j < bits.length) (acc : Half) :
    (bits.set j (!bits[j])).foldl fold1 acc ≠ bits.foldl fold1 acc := by
  intro h
  have hbits : bits = bits.take j ++ bits[j] :: bits.drop (j + 1) := by
    rw [List.cons_getElem_drop_succ, List.take_append_drop]
  rw [List.set_eq_take_append_cons_drop, if_pos hj] at h
  conv at h => rhs; rw [hbits]
  rw [List.foldl_append, List.foldl_append, List.foldl_cons, List.foldl_cons] at h
  exact fold1_not_ne _ _ (foldl_fold1_injective _ h)

theorem getLsbD_flip (v : Byte) {i k : Nat} (hi : i < 8) (hk : k < 8) :
    (v ^^^ (1#8 <<< k)).getLsbD i = (v.getLsbD i ^^ decide (i = k)) := by
  have hone : ∀ i < 8, ∀ k < 8, (1#8 <<< k).getLsbD i = decide (i = k) := by decide
  rw [BitVec.getLsbD_xor, hone i hi k hk]

/-- A flip of one bit of a byte is a flip of one protected bit. -/
theorem ProtectedBits.flip {v : Byte} {j k : Nat} (h : ProtectedBits m bc bits) (hj : j < bits.length)
    (hoff : bitOffset j = off.toNat) (hk : 7 - j % 8 = k) (hv : m.byteAt off.toNat = some v) :
    ProtectedBits (m.setByte off.toNat (v ^^^ (1#8 <<< k))) bc (bits.set j (!bits[j])) := by
  obtain ⟨hlen, hbit⟩ := h
  refine ⟨by rw [List.length_set, hlen], fun i hi => ?_⟩
  by_cases hio : bitOffset i = off.toNat
  · have hbi : some (v.getLsbD (7 - i % 8)) = bits[i]? := by rw [← hbit i hi, frameBit_eq, hio, hv]; rfl
    rw [frameBit_eq, hio, Memory.byteAt_setByte_same, Option.map_some, getLsbD_flip v (by omega) (by omega)]
    by_cases hij : i = j
    · subst hij
      rw [List.getElem?_eq_getElem hj, Option.some_inj] at hbi
      rw [List.getElem?_set_self hj, decide_eq_true hk, Bool.xor_true, hbi]
    · have hik : ¬ 7 - i % 8 = k := fun he => hij (bitOffset_injective (hio.trans hoff.symm) (he.trans hk.symm))
      rw [List.getElem?_set_ne (Ne.symm hij), decide_eq_false hik, Bool.xor_false, hbi]
  · have hij : j ≠ i := fun he => hio (he ▸ hoff)
    rw [frameBit_setByte_other hio, List.getElem?_set_ne hij, hbit i hi]

/-- Settles O40: the protected bits make a list, the flip changes one entry of it, and the fold over the list then
differs. -/
theorem oneFlippedBitChangesTheCrc : Obligations.OneFlippedBitChangesTheCrc := by
  unfold Obligations.OneFlippedBitChangesTheCrc
  intro m bc off k v c hpb hv hc
  obtain ⟨bits, hbits⟩ : ∃ bits, ProtectedBits m bc bits := exists_bits (frameBit_isSome_of_frameCrc hc)
  obtain ⟨j, hj, hoff, hk⟩ := hpb.exists_index
  rw [← hbits.1] at hj
  obtain rfl : bits.foldl fold1 0xFFFF = c := Except.ok.inj (hbits.frameCrc_eq.symm.trans hc)
  exact ⟨_, (hbits.flip hj hoff hk hv).frameCrc_eq, foldl_set_not_ne hj _⟩

/-! ### A repeated `WHDR` (R94) -/

theorem Memory.byteAt_of_lt {lo a : Nat} (h : m.risingFrom lo = true) (ha : a < lo) : m.byteAt a = none := by
  induction m generalizing lo with
  | nil => rfl
  | cons e m ih =>
    simp only [risingFrom, Bool.and_eq_true, decide_eq_true_eq] at h
    obtain ⟨⟨hlo, -⟩, hm⟩ := h
    rw [byteAt, if_neg (by omega), ih hm (by omega)]

/-- In canonical form a byte written over itself changes nothing. -/
theorem Memory.setByte_of_risingFrom {lo a : Nat} {v : Byte} (h : m.risingFrom lo = true) (hv : m.byteAt a = some v) :
    m.setByte a v = m := by
  induction m generalizing lo with
  | nil => cases hv
  | cons e m ih =>
    have hrise := h
    simp only [risingFrom, Bool.and_eq_true, decide_eq_true_eq] at h
    obtain ⟨-, hm⟩ := h
    obtain ⟨b, w⟩ := e
    rw [byteAt] at hv
    split at hv
    · next hb =>
      obtain rfl : b = a := hb
      obtain rfl : w = v := Option.some.inj hv
      simp [setByte]
    · next hb =>
      have hb : ¬ b = a := hb
      have hlt : ¬ a < b := fun hlt => by
        rw [byteAt_of_lt hm (Nat.lt_succ_of_lt hlt)] at hv
        cases hv
      rw [setByte, if_neg hlt, if_neg (Ne.symm hb), ih hm hv]

theorem Memory.setByte_self {a : Nat} {v : Byte} (h : m.wf = true) (hv : m.byteAt a = some v) : m.setByte a v = m :=
  setByte_of_risingFrom h hv

theorem not_protectedBit_four (bc : Half) (k : Nat) : ¬ ProtectedBit bc 4 k := by
  rintro ⟨-, h | h | ⟨h, -⟩⟩ <;> exact absurd h (by decide)

theorem not_protectedBit_five (bc : Half) (k : Nat) : ¬ ProtectedBit bc 5 k := by
  rintro ⟨-, h | h | ⟨h, -⟩⟩ <;> exact absurd h (by decide)

theorem State.storeCrc_eq (s : State) (c : Half) : s.storeCrc c =
    { s with acc := c, frame := (s.frame.setByte 4 (crcHi c)).setByte 5 (crcLo c) } := rfl

/-- The stored CRC is no part of what it is computed from (R37, R43). -/
theorem frameCrc_storeCrc (s : State) (c bc : Half) : frameCrc (s.storeCrc c).frame bc = frameCrc s.frame bc := by
  rw [State.storeCrc_eq]
  exact (frameCrc_setByte_of_unprotected (off := 5) (not_protectedBit_five bc) _).trans
    (frameCrc_setByte_of_unprotected (off := 4) (not_protectedBit_four bc) _)

theorem State.storeCrc_storeCrc (hs : s.frame.wf = true) (c : Half) : (s.storeCrc c).storeCrc c = s.storeCrc c := by
  have h4 : (s.storeCrc c).frame.byteAt 4 = some (crcHi c) := by rw [storeCrc_byteAt]; rfl
  have h5 : (s.storeCrc c).frame.byteAt 5 = some (crcLo c) := by rw [storeCrc_byteAt]; rfl
  have hwf : (s.storeCrc c).frame.wf = true := storeByte_wf crcOffLo _ (storeByte_wf crcOffHi _ hs)
  rw [storeCrc_eq (s.storeCrc c) c, Memory.setByte_self hwf h4, Memory.setByte_self hwf h5]
  rfl

/-- Settles O41: the repeated command computes the same CRC and stores it over itself. -/
theorem repeatedWhdrStoresTheSame : Obligations.RepeatedWhdrStoresTheSame := by
  unfold Obligations.RepeatedWhdrStoresTheSame
  intro s t bc hs h
  obtain ⟨c, hc, rfl⟩ := whdrAtomic_eq_next.mp h
  rw [whdrAtomic_eq_next]
  exact ⟨c, (frameCrc_storeCrc s c bc).trans hc, (State.storeCrc_storeCrc hs.frame_wf c).symm⟩

/-! ### The fold by hand (R93) -/

theorem execAll_append {is : List Instr} (h : execAll is s = .next t) (js : List Instr) :
    execAll (is ++ js) s = execAll js t := by
  induction is generalizing s with
  | nil =>
    cases h
    rfl
  | cons i is ih =>
    rw [execAll] at h
    split at h
    · next hi => rw [List.cons_append, execAll_cons _ hi, ih h]
    · cases h
    · cases h

/-- Whole bytes folded one after the other. -/
def foldBytes (acc : Half) (bytes : List Byte) : Half := bytes.foldl (fun a b => updateCrc b a 8) acc

theorem foldBytes_cons (acc : Half) (b : Byte) (bytes : List Byte) :
    foldBytes acc (b :: bytes) = foldBytes (updateCrc b acc 8) bytes := rfl

theorem State.setAcc_setAcc (s : State) (v w : Half) : (s.setAcc v).setAcc w = s.setAcc w := rfl

theorem exec_upd8_of_ready (hs : s.Ready) (b : Byte) : exec (.upd8 b) s = .next (s.setAcc (updateCrc b s.acc 8)) :=
  (s.offer_ready_faulted fun s => s.setAcc (updateCrc b s.acc 8)).1 hs

theorem exec_upd_of_ready (hs : s.Ready) (n : BitVec 3) (b : Byte) :
    exec (.upd n b) s = .next (s.setAcc (updateCrc b s.acc (updCount n))) :=
  (s.offer_ready_faulted fun s => s.setAcc (updateCrc b s.acc (updCount n))).1 hs

theorem exec_ldacc_of_ready (hs : s.Ready) (v : Half) : exec (.ldacc v) s = .next (s.setAcc v) :=
  (s.offer_ready_faulted (·.setAcc v)).1 hs

theorem execAll_updb (hs : s.Ready) (bytes : List Byte) :
    execAll (bytes.map .updb) s = .next (s.setAcc (foldBytes s.acc bytes)) := by
  induction bytes generalizing s with
  | nil => rfl
  | cons b bytes ih =>
    have hs' : (s.setAcc (updateCrc b s.acc 8)).Ready := hs
    rw [List.map_cons, execAll_cons _ (exec_upd8_of_ready hs b), ih hs']
    rfl

theorem foldWhole_of_bytes {bytes : List Byte} (hwrap : ptr.toNat + bytes.length < 65536)
    (h : ∀ i < bytes.length, m.byteAt (ptr.toNat + i) = bytes[i]?) (acc : Half) :
    foldWhole m acc ptr bytes.length = .ok (foldBytes acc bytes) := by
  induction bytes generalizing ptr acc with
  | nil => rfl
  | cons b bytes ih =>
    rw [List.length_cons] at h hwrap ⊢
    have hptr : (ptr + 1).toNat = ptr.toNat + 1 := by bv_omega
    have hrest : ∀ i < bytes.length, m.byteAt ((ptr + 1).toNat + i) = bytes[i]? := fun i hi => by
      rw [hptr, Nat.add_assoc, Nat.add_comm 1, h _ (by omega), List.getElem?_cons_succ]
    exact foldWhole_succ_eq_ok.mpr ⟨b, h 0 (Nat.succ_pos _), ih (by omega) hrest _⟩

/-- What R91 folds, as bytes: the header, the whole payload bytes, and the top bits of the partial byte. -/
def bytesCrc (bc : Half) (h2 h3 : Byte) (whole : List Byte) (last : Byte) : Half :=
  if bc.toNat % 8 = 0 then foldBytes crcInit (h2 :: h3 :: whole)
  else updateCrc last (foldBytes crcInit (h2 :: h3 :: whole)) (partialBits bc)

theorem execAll_handFold (hs : s.Ready) (bc : Half) (h2 h3 : Byte) (whole : List Byte) (last : Byte) :
    execAll (handFold bc h2 h3 whole last) s = .next (s.setAcc (bytesCrc bc h2 h3 whole last)) := by
  have hr : ∀ v, (s.setAcc v).Ready := fun _ => hs
  have hwhole : execAll ([.init, .updb h2, .updb h3] ++ whole.map .updb) s =
      .next (s.setAcc (foldBytes crcInit (h2 :: h3 :: whole))) :=
    (execAll_cons _ (exec_ldacc_of_ready hs crcInit)).trans (execAll_updb (hr crcInit) (h2 :: h3 :: whole))
  rw [handFold, execAll_append hwhole, bytesCrc]
  by_cases hp : bc.toNat % 8 = 0
  · rw [if_pos hp, if_pos hp, execAll_nil]
  · have hn : updCount (BitVec.ofNat 3 (bc.toNat % 8)) = partialBits bc := by
      apply Fin.ext
      simp only [updCount, partialBits, BitVec.toNat_ofNat]
      omega
    rw [if_neg hp, if_neg hp, execAll_cons _ (exec_upd_of_ready (hr _) _ last), hn, execAll_nil, State.setAcc_acc,
      State.setAcc_setAcc]

theorem crcHi_append_crcLo (c : Half) : (crcHi c ++ crcLo c).setWidth 16 = c := by
  apply BitVec.eq_of_getLsbD_eq
  intro i hi
  simp only [crcHi, crcLo, BitVec.getLsbD_setWidth, BitVec.getLsbD_append, BitVec.getLsbD_extractLsb']
  grind

/-- R91 on a frame whose bytes are given. -/
theorem frameCrc_of_bytes {h2 h3 last : Byte} {whole : List Byte} (hv2 : m.byteAt 2 = some h2)
    (hv3 : m.byteAt 3 = some h3) (hlen : whole.length = bc.toNat / 8)
    (hwhole : ∀ i, i < bc.toNat / 8 → m.byteAt (6 + i) = whole[i]?)
    (hlast : bc.toNat % 8 ≠ 0 → m.byteAt (6 + bc.toNat / 8) = some last) :
    frameCrc m bc = .ok (bytesCrc bc h2 h3 whole last) := by
  have hbc := bc.isLt
  rw [← hlen] at hwhole
  have h6 : (6 : Half).toNat = 6 := rfl
  have hw := foldWhole_of_bytes (ptr := 6) (m := m) (by omega) hwhole (updateCrc h3 (updateCrc h2 0xFFFF 8) 8)
  rw [hlen] at hw
  refine frameCrc_eq_ok.mpr ⟨h2, h3, _, hv2, hv3, hw, ?_⟩
  by_cases hp : bc.toNat % 8 = 0
  · have hp0 : partialBits bc = 0 := Fin.ext hp
    rw [foldPartial, if_pos hp0, bytesCrc, if_pos hp, foldBytes_cons, foldBytes_cons, crcInit]
  · have hp0 : partialBits bc ≠ 0 := fun hz => hp (congrArg Fin.val hz)
    have hoff : (6 + BitVec.ofNat 16 (wholeBytes bc) : Half).toNat = 6 + bc.toNat / 8 := by
      rw [BitVec.toNat_add, h6, BitVec.toNat_ofNat, wholeBytes]
      omega
    rw [foldPartial, if_neg hp0, foldByte_of_byteAt (hoff ▸ hlast hp), bytesCrc, if_neg hp, foldBytes_cons,
      foldBytes_cons, crcInit]

/-- Settles O42: the commands fold the bytes that R91 folds, from the same value, and what `WHDR` stored is the result. -/
theorem handFoldReproducesTheCrc : Obligations.HandFoldReproducesTheCrc := by
  unfold Obligations.HandFoldReproducesTheCrc
  intro s t u bc h2 h3 last hi lo whole ht hu hv2 hv3 hlen hwhole hlast hv4 hv5
  obtain ⟨c, hc, rfl⟩ := whdrAtomic_eq_next.mp ht
  rw [State.storeCrc_byteAt] at hv4 hv5
  obtain rfl : crcHi c = hi := Option.some.inj hv4
  obtain rfl : crcLo c = lo := Option.some.inj hv5
  have hcrc := frameCrc_of_bytes hv2 hv3 hlen hwhole hlast
  rw [frameCrc_storeCrc, hc] at hcrc
  rw [execAll_handFold hu, ← Except.ok.inj hcrc, crcHi_append_crcLo]
  rfl

end Sys2Proof.Machine

/-! ## The micro-steps of a `WHDR` to its end (R12, R31, R91, R95, R103, R151) -/

namespace Sys2Proof.Machine

variable {m : Memory} {s t u x : State} {r : Running} {bc off ptr rem c : Half}

/-! ### The micro-steps against the one-step description (R103) -/

/-- How many micro-steps a `WHDR` still takes. -/
def stepsLeft : Op → Nat
  | .idle => 0
  | .hdr2 bc => microSteps bc
  | .hdr3 bc => 1 + wholeBytes bc + 1 + 2
  | .body _ rem => wholeBytes rem + 1 + 2
  | .wr4 => 2
  | .wr5 => 1

/-- How a `WHDR` ends whose folds answer `e`: complete with the CRC stored, or stopped. -/
def State.conclude (s : State) (e : Except Fault Half) : Host.Outcome State Fault Refusal :=
  match e with
  | .ok c => .next (s.storeCrc c).finishWhdr
  | .error f => .fault f

/-- A micro-step that reads is one fold of the one-step description. -/
theorem State.blockRun_of_foldFrom {n : Nat} {k : Fin 9} {o : Op} {g : Half → Except Fault Half}
    (hstep : blockStep s = s.foldFrom off k o)
    (hrun : ∀ a, blockRun n ((s.setAcc a).setOp o) = s.conclude (g a)) :
    blockRun (n + 1) s = s.conclude ((foldByte s.frame off k s.acc).bind g) := by
  rw [blockRun, hstep, foldFrom, foldByte]
  cases memRead s.frame off with
  | error f => rfl
  | ok v => exact hrun _

theorem blockRun_wr5 (hop : s.op = .wr5) : blockRun 1 s = .next (stepWr5 s) :=
  blockRun_succ 0 (blockStep_of_wr5 hop)

theorem blockRun_wr4 (hop : s.op = .wr4) : blockRun 2 s = s.conclude (.ok s.acc) := by
  rw [blockRun_succ 1 (blockStep_of_wr4 hop), blockRun_wr5 rfl]
  rfl

theorem blockRun_body (hop : s.op = .body ptr rem) :
    blockRun (wholeBytes rem + 1 + 2) s = s.conclude (foldPayload s.frame ptr rem s.acc) := by
  induction ptr, rem using payload_induction generalizing s with
  | zero ptr =>
    have hstep : blockStep s = .next (s.setOp .wr4) := by rw [blockStep_of_body hop, stepBody_zero]
    exact (blockRun_succ 2 hstep).trans (blockRun_wr4 rfl)
  | rest ptr rem h0 h8 =>
    have hstep := (blockStep_of_body hop).trans
      (stepBody_of_partial (n := ⟨rem.toNat, by omega⟩) rfl (Nat.le_of_lt_succ h8) h0 s)
    have hrun := s.blockRun_of_foldFrom (n := 2) (g := .ok) hstep fun a => blockRun_wr4 rfl
    rw [wholeBytes_of_lt_eight h8, foldPayload_rest h0 h8, hrun]
    cases foldByte s.frame ptr ⟨rem.toNat, by omega⟩ s.acc <;> rfl
  | whole ptr rem h8 ih =>
    have hstep := (blockStep_of_body hop).trans (stepBody_of_eight_le h8 s)
    rw [wholeBytes_of_eight_le h8, foldPayload_whole h8]
    exact s.blockRun_of_foldFrom hstep fun a => ih rfl

theorem blockRun_hdr3 (hop : s.op = .hdr3 bc) :
    blockRun (1 + wholeBytes bc + 1 + 2) s = s.conclude (crcToCome s.frame (.hdr3 bc) s.acc) := by
  rw [show 1 + wholeBytes bc + 1 + 2 = wholeBytes bc + 1 + 2 + 1 by omega]
  exact s.blockRun_of_foldFrom (blockStep_of_hdr3 hop) fun a => blockRun_body rfl

theorem blockRun_hdr2 (hop : s.op = .hdr2 bc) :
    blockRun (microSteps bc) s = s.conclude (crcToCome s.frame (.hdr2 bc) s.acc) := by
  rw [show microSteps bc = 1 + wholeBytes bc + 1 + 2 + 1 by rw [microSteps]; omega]
  exact s.blockRun_of_foldFrom (blockStep_of_hdr2 hop) fun a => blockRun_hdr3 rfl

/-- Outside its run a `WHDR` leaves `BUSY`, `OP` and the record of it as they were. -/
theorem State.Inv.finishWhdr_beginWhdr (hs : s.Inv) (hb : s.busy = false) (bc c : Half) :
    ((s.beginWhdr bc).storeCrc c).finishWhdr = s.storeCrc c := by
  have hop := hs.op_idle hb
  have hr := hs.running_none hb
  calc ((s.beginWhdr bc).storeCrc c).finishWhdr
      = { s.storeCrc c with busy := false, op := .idle, running := none } := rfl
    _ = { s.storeCrc c with busy := s.busy, op := s.op, running := s.running } := by rw [hb, hop, hr]
    _ = s.storeCrc c := rfl

/-- R103: from the acceptance on, the micro-steps have the outcome of R91. -/
theorem State.Inv.blockRun_beginWhdr (hs : s.Inv) (hb : s.busy = false) (bc : Half) :
    blockRun (microSteps bc) (s.beginWhdr bc) = whdrAtomic bc s := by
  have hcrc : crcToCome (s.beginWhdr bc).frame (.hdr2 bc) (s.beginWhdr bc).acc = frameCrc s.frame bc :=
    crcToCome_hdr2_crcInit s.frame bc
  rw [blockRun_hdr2 rfl, hcrc, whdrAtomic]
  cases frameCrc s.frame bc with
  | error f => rfl
  | ok c => exact congrArg _ (hs.finishWhdr_beginWhdr hb bc c)

theorem exec_whdr_of_checksPass (hs : s.Ready) (hpass : s.ChecksPass bc) :
    exec (.whdr bc) s = .next (s.beginWhdr bc) := by
  rw [exec_whdr_of_ready hs, State.acceptWhdr_of_checksPass hpass]

/-- Settles O36: each micro-step that reads is one fold of R91, and the two stores end it. -/
theorem microStepsRefineWhdr : Obligations.MicroStepsRefineWhdr := by
  unfold Obligations.MicroStepsRefineWhdr
  exact fun s bc hinv hs hpass => ⟨_, exec_whdr_of_checksPass hs hpass, hinv.blockRun_beginWhdr hs.1 bc⟩

/-! ### A written window (R143) -/

theorem streamBit_isSome {o n i : Nat} (h : ∀ a, o ≤ a → a < o + ceil8 n → (m.byteAt a).isSome = true) (hi : i < n) :
    (streamBit m o i).isSome = true := by
  rw [streamBit, Option.isSome_map]
  simp only [ceil8] at h
  exact h _ (by omega) (by omega)

/-- The payload folds without a stop where its bytes are written. -/
theorem exists_foldPayload (hwrap : ptr.toNat + ceil8 rem.toNat < 65536)
    (h : ∀ a, ptr.toNat ≤ a → a < ptr.toNat + ceil8 rem.toNat → (m.byteAt a).isSome = true) (acc : Half) :
    ∃ c, foldPayload m ptr rem acc = .ok c := by
  obtain ⟨bits, hlen, hbits⟩ := exists_bits fun i (hi : i < rem.toNat) => streamBit_isSome h hi
  rw [← hlen] at hbits
  exact ⟨_, Streams.foldPayload_eq hbits hlen hwrap acc⟩

theorem exists_foldByte (h : (m.byteAt off.toNat).isSome = true) (n : Fin 9) (acc : Half) :
    ∃ c, foldByte m off n acc = .ok c := by
  obtain ⟨v, hv⟩ := Option.isSome_iff_exists.mp h
  exact ⟨_, foldByte_of_byteAt hv n acc⟩

theorem WindowWritten.exists_hdr3 (h : WindowWritten m bc) (acc : Half) :
    ∃ c, crcToCome m (.hdr3 bc) acc = .ok c := by
  obtain ⟨a3, h3⟩ := exists_foldByte (off := 3) (h 3 (.inr (.inl rfl))) 8 acc
  obtain ⟨c, hc⟩ := exists_foldPayload (ptr := 6) (payload_fits bc) (fun a h6 ha => h a (.inr (.inr ⟨h6, ha⟩))) a3
  refine ⟨c, ?_⟩
  change (foldByte m 3 8 acc).bind _ = _
  rw [h3]
  exact hc

theorem WindowWritten.exists_hdr2 (h : WindowWritten m bc) (acc : Half) :
    ∃ c, crcToCome m (.hdr2 bc) acc = .ok c := by
  obtain ⟨a2, h2⟩ := exists_foldByte (off := 2) (h 2 (.inl rfl)) 8 acc
  obtain ⟨c, hc⟩ := h.exists_hdr3 a2
  refine ⟨c, ?_⟩
  change (foldByte m 2 8 acc).bind _ = _
  rw [h2]
  exact hc

/-- A frame whose window is written has a CRC. -/
theorem WindowWritten.exists_frameCrc (h : WindowWritten m bc) : ∃ c, frameCrc m bc = .ok c := by
  rw [← crcToCome_hdr2_crcInit]
  exact h.exists_hdr2 crcInit

theorem WindowWritten.exists_body (h : WindowWritten m bc) (hfits : BodyFits bc ptr rem) (acc : Half) :
    ∃ c, crcToCome m (.body ptr rem) acc = .ok c := by
  obtain ⟨-, -, hptr, hneed⟩ := hfits
  have hle := need_le bc
  exact exists_foldPayload (by omega) (fun a ha hlt => h a (.inr (.inr ⟨by omega, by omega⟩))) acc

/-! ### Completion (R31, R95, R151) -/

/-- With no move of the host's to come, the machine's steps are the block's own. -/
theorem coreRun_of_blockRun {n : Nat} (hp : s.port = []) (h : blockRun n s = .next u) :
    Host.Core.run core n s = .next u := by
  induction n generalizing s with
  | zero => exact h
  | succ n ih =>
    obtain ⟨t, ht, hrun⟩ := blockRun_succ_eq_next h
    have hstep : core.step s = .next t := (step_of_port_nil hp).trans ht
    rw [coreRun_succ n hstep]
    exact ih ((blockStep_eq_next ht).sameHost.port.trans hp) hrun

/-- Settles O37: the micro-steps have the outcome of R91, which with a written window is the two stores. -/
theorem whdrStoresTheCrc : Obligations.WhdrStoresTheCrc := by
  unfold Obligations.WhdrStoresTheCrc
  intro s bc hinv hs hpass hp hw
  obtain ⟨c, hc⟩ := hw.exists_frameCrc
  have hrun : blockRun (microSteps bc) (s.beginWhdr bc) = .next (s.storeCrc c) :=
    (hinv.blockRun_beginWhdr hs.1 bc).trans (whdrAtomic_eq_next.mpr ⟨c, hc, rfl⟩)
  refine ⟨_, c, _, exec_whdr_of_checksPass hs hpass, hc, coreRun_of_blockRun hp hrun, rfl, ?_, ?_, fun a h4 h5 => ?_, rfl⟩
  · rw [State.storeCrc_byteAt]
    rfl
  · rw [State.storeCrc_byteAt]
    rfl
  · rw [State.storeCrc_byteAt, if_neg h5, if_neg h4]

/-- A run that ends without a stop ends with `BUSY = 0` and `OP = Idle`. -/
theorem State.exists_conclude {n : Nat} {e : Except Fault Half} (h : blockRun n s = s.conclude e)
    (he : ∃ c, e = .ok c) : ∃ t, blockRun n s = .next t ∧ t.busy = false ∧ t.op = .idle := by
  obtain ⟨c, rfl⟩ := he
  exact ⟨_, h, rfl, rfl⟩

/-- A `WHDR` in flight over a written window ends after the steps it has left. -/
theorem State.InFlight.exists_completion (hs : s.InFlight) (hr : s.running = some r) (hw : WindowWritten s.frame r.bc) :
    ∃ t, blockRun (stepsLeft s.op) s = .next t ∧ t.busy = false ∧ t.op = .idle := by
  cases hop : s.op with
  | idle =>
    have hnone := (inFlight_idle_iff hop).mp hs
    rw [hr] at hnone
    cases hnone
  | hdr2 bc =>
    obtain ⟨r', hr', rfl, -⟩ := (inFlight_hdr2_iff hop).mp hs
    obtain rfl := Option.some.inj (hr.symm.trans hr')
    exact s.exists_conclude (blockRun_hdr2 hop) (hw.exists_hdr2 s.acc)
  | hdr3 bc =>
    obtain ⟨r', hr', rfl, -⟩ := (inFlight_hdr3_iff hop).mp hs
    obtain rfl := Option.some.inj (hr.symm.trans hr')
    exact s.exists_conclude (blockRun_hdr3 hop) (hw.exists_hdr3 s.acc)
  | body ptr rem =>
    obtain ⟨r', hr', hfits, -⟩ := (inFlight_body_iff hop).mp hs
    obtain rfl := Option.some.inj (hr.symm.trans hr')
    exact s.exists_conclude (blockRun_body hop) (hw.exists_body hfits s.acc)
  | wr4 => exact s.exists_conclude (blockRun_wr4 hop) ⟨_, rfl⟩
  | wr5 => exact ⟨_, blockRun_wr5 hop, rfl, rfl⟩

/-- At no point has a `WHDR` more steps left than it takes in all (R103). -/
theorem State.InFlight.stepsLeft_le (hs : s.InFlight) (hr : s.running = some r) : stepsLeft s.op ≤ microSteps r.bc := by
  cases hop : s.op with
  | hdr2 bc =>
    obtain ⟨r', hr', rfl, -⟩ := (inFlight_hdr2_iff hop).mp hs
    obtain rfl := Option.some.inj (hr.symm.trans hr')
    exact le_rfl
  | hdr3 bc =>
    obtain ⟨r', hr', rfl, -⟩ := (inFlight_hdr3_iff hop).mp hs
    obtain rfl := Option.some.inj (hr.symm.trans hr')
    simp only [stepsLeft, microSteps]
    omega
  | body ptr rem =>
    obtain ⟨r', hr', ⟨hle, -⟩, -⟩ := (inFlight_body_iff hop).mp hs
    obtain rfl := Option.some.inj (hr.symm.trans hr')
    simp only [stepsLeft, microSteps, wholeBytes]
    omega
  | idle | wr4 | wr5 =>
    simp only [stepsLeft, microSteps]
    omega

/-- Settles O44: the steps that the in-flight record leaves are enough, and they are no more than `2 + w + 1 + 2`. -/
theorem whdrInFlightCompletes : Obligations.WhdrInFlightCompletes := by
  unfold Obligations.WhdrInFlightCompletes
  intro s r hs hr hw
  obtain ⟨t, ht⟩ := hs.in_flight.exists_completion hr hw
  exact ⟨_, t, hs.in_flight.stepsLeft_le hr, ht⟩

/-! ### What the micro-steps do not depend on (R12) -/

/-- `s` with the fields of `x` that no micro-step reads or writes. -/
def State.withBystanders (s x : State) : State :=
  { s with
    lost := x.lost, cause := x.cause, info := x.info, port := x.port, lastRead := x.lastRead, draws := x.draws,
    everFaulted := x.everFaulted }

theorem BlockMove.withBystanders (h : BlockMove s t) (x : State) :
    BlockMove (s.withBystanders x) (t.withBystanders x) := by
  cases h with
  | idle hop => exact .idle hop
  | hdr2 hop hv => exact .hdr2 (s := s.withBystanders x) hop hv
  | hdr3 hop hv => exact .hdr3 (s := s.withBystanders x) hop hv
  | whole hop h8 hv => exact .whole (s := s.withBystanders x) hop h8 hv
  | partialByte hop h0 h8 hv => exact .partialByte (s := s.withBystanders x) hop h0 h8 hv
  | noPartial hop => exact .noPartial (s := s.withBystanders x) hop
  | wr4 hop => exact .wr4 (s := s.withBystanders x) hop
  | wr5 hop => exact .wr5 (s := s.withBystanders x) hop

theorem blockRun_withBystanders {n : Nat} (h : blockRun n s = .next u) (x : State) :
    blockRun n (s.withBystanders x) = .next (u.withBystanders x) := by
  induction n generalizing s with
  | zero =>
    cases h
    rfl
  | succ n ih =>
    obtain ⟨t, ht, hrun⟩ := blockRun_succ_eq_next h
    rw [blockRun_succ n ((blockStep_eq_next ht).withBystanders x).blockStep_eq, ih hrun]

/-- The acceptance forgets `ACC`. -/
theorem State.beginWhdr_eq_withBystanders (hs : s.Ready) (hx : x.Ready) (hframe : s.frame = x.frame)
    (hlen : s.len = x.len) (hparams : s.params = x.params) (bc : Half) :
    x.beginWhdr bc = (s.beginWhdr bc).withBystanders x := by
  obtain ⟨-, he⟩ := hs
  obtain ⟨-, he'⟩ := hx
  simp [beginWhdr, withBystanders, hframe, hlen, hparams, he, he']

/-- Settles O43: after the acceptance the two states differ only in fields that no micro-step reads or writes. -/
theorem whdrForgetsTheOldAccumulator : Obligations.WhdrForgetsTheOldAccumulator := by
  unfold Obligations.WhdrForgetsTheOldAccumulator
  intro s x t t' u bc n hs hx hframe hlen hparams hpass h h' hrun
  have hpass' : x.ChecksPass bc := by rwa [State.ChecksPass, ← hlen, ← hparams]
  rw [exec_whdr_of_checksPass hs hpass] at h
  rw [exec_whdr_of_checksPass hx hpass'] at h'
  cases h
  cases h'
  rw [State.beginWhdr_eq_withBystanders hs hx hframe hlen hparams]
  exact ⟨_, blockRun_withBystanders hrun x, rfl, rfl, rfl, rfl⟩

end Sys2Proof.Machine
